-- ==== Sys2Proof/Word.lean ====
section
/-! DEFINITION. The words of the block (spec/00_scope.md R7, R9, R10): every value is an unsigned bit vector, bit 0
the least significant, and none is wider than 24 bits. -/

namespace Sys2Proof

/-- A register address or a register value of the chip (R7 `ADDR_W`, `REG_W`), a command field (R100). -/
abbrev Byte := BitVec 8

/-- A per-pin intensity (R7 `INT_W`); half of an intensity register (R9). -/
abbrev Nibble := BitVec 4

/-- A pin index 0–15 (R7 `NUM_PINS`), the argument `p` of the decoder functions (40_address_decode.md). -/
abbrev PinIndex := BitVec 4

/-- A command word CMD24 (R100). -/
abbrev CmdWord := BitVec 24

/-- A chip bus address (R60.1, R24: 7 bits). -/
abbrev ChipAddr := BitVec 7

end Sys2Proof
end

