-- ==== Sys2Proof/Syntax.lean ====
section
/-! DEFINITION. The commands (spec/30_encoding.md R100–R105, spec/opcode_table.json) and the error causes
(spec/60_exceptions.md R220, R14). -/

namespace Sys2Proof

/-- The mode operand of pinMode (R101, D7): the register bit written, 0 = OUTPUT, 1 = INPUT (R67). -/
inductive PinMode where
  | output
  | input
deriving DecidableEq, Repr

/-- The eight commands, one constructor per row of the opcode table (R102). A `pin` is the command word's whole 8-bit
field, so that an index outside 0–15 can be written and is refused (R106); `value` and `intensity` are raw 8-bit
arguments, every value legal (R101). -/
inductive Instr where
  | begin
  | pinMode (pin : Byte) (mode : PinMode)
  | digitalRead (pin : Byte)
  | digitalWrite (pin : Byte) (value : Byte)
  | analogWrite (pin : Byte) (intensity : Byte)
  | enableInterrupt
  | disableInterrupt
  | clearInterrupt
deriving DecidableEq, Repr

/-- The causes `E(info)` of a `raise` (R14, R220). -/
inductive Cause where
  /-- Transaction `k` of the operation failed. -/
  | busFail (k : BitVec 3)
  /-- A pin-taking command with `pin ≥ 16`. -/
  | invalidPin (pin : Byte)
  /-- An opcode outside 0x01–0x08. -/
  | illegalOp (op : Byte)
  /-- A nonzero reserved field, or a pinMode mode that is not 0 or 1. -/
  | illegalArg (arg : Byte)
deriving DecidableEq, Repr

end Sys2Proof
end

