-- ==== Sys2Proof/WellFormed.lean ====
section
/-! DEFINITION. Which commands the block accepts: the pin of a pin-taking command is in 0–15
(spec/30_encoding.md R102, R106; spec/00_scope.md R7). Modes, values and intensities have no further check (R101). -/

namespace Sys2Proof

/-- R106: "pin >= 16: raise InvalidPin(pin)". -/
def validPin (pin : Byte) : Bool := decide (pin.toNat < 16)

/-- The operand ranges of R102. -/
def Instr.wellFormed : Instr → Bool
  | .begin => true
  | .pinMode pin _ => validPin pin
  | .digitalRead pin => validPin pin
  | .digitalWrite pin _ => validPin pin
  | .analogWrite pin _ => validPin pin
  | .enableInterrupt => true
  | .disableInterrupt => true
  | .clearInterrupt => true

end Sys2Proof
end

