-- ==== Sys2Proof/Decode.lean ====
section
/-! DEFINITION. The command word (spec/30_encoding.md): fields (R100), acceptance checks (R106), decoding, total on all
2^24 words (R107), the encoder written from the same table (R102), the
assembler (R109), and the opcode table's mask/match rows. -/

namespace Sys2Proof

/-- R100: bits 23:16. -/
def opField (c : CmdWord) : Byte := c.extractLsb' 16 8
/-- R100: bits 15:8. -/
def pinField (c : CmdWord) : Byte := c.extractLsb' 8 8
/-- R100: bits 7:0. -/
def argField (c : CmdWord) : Byte := c.extractLsb' 0 8

/-- R100: `cmd = {op, pin, arg}`. -/
def packWord (op pin arg : Byte) : CmdWord := op ++ pin ++ arg

/-- R102, R104: the opcodes that select a command. -/
def isOpcode (op : Byte) : Bool := decide (1 ≤ op.toNat) && decide (op.toNat ≤ 8)

/-- R103: PIN_OPS. -/
def isPinOp (op : Byte) : Bool := op == 0x02#8 || op == 0x03#8 || op == 0x04#8 || op == 0x05#8

/-- R103: NOPIN_OPS. -/
def isNoPinOp (op : Byte) : Bool := op == 0x01#8 || op == 0x06#8 || op == 0x07#8 || op == 0x08#8

/-- The acceptance checks of R106, in their order; the first that applies decides (R223). -/
def acceptanceCheck (c : CmdWord) : Option Cause :=
  if !isOpcode (opField c) then some (.illegalOp (opField c))
  else if isPinOp (opField c) && !validPin (pinField c) then some (.invalidPin (pinField c))
  else if isNoPinOp (opField c) && (pinField c != 0 || argField c != 0) then some (.illegalArg (argField c))
  else if opField c == 0x03#8 && argField c != 0 then some (.illegalArg (argField c))
  else if opField c == 0x02#8 && argField c != 0x00#8 && argField c != 0x01#8 then some (.illegalArg (argField c))
  else none

/-- R101, D7: `arg[0]` of pinMode, 0 = OUTPUT and 1 = INPUT. -/
def modeOf (arg : Byte) : PinMode := if arg.getLsbD 0 then .input else .output

/-- R102: the command an opcode selects, with its operands (R101); no check. -/
def selectCommand (c : CmdWord) : Except Cause Instr :=
  if opField c = 0x01#8 then .ok .begin
  else if opField c = 0x02#8 then .ok (.pinMode (pinField c) (modeOf (argField c)))
  else if opField c = 0x03#8 then .ok (.digitalRead (pinField c))
  else if opField c = 0x04#8 then .ok (.digitalWrite (pinField c) (argField c))
  else if opField c = 0x05#8 then .ok (.analogWrite (pinField c) (argField c))
  else if opField c = 0x06#8 then .ok .enableInterrupt
  else if opField c = 0x07#8 then .ok .disableInterrupt
  else if opField c = 0x08#8 then .ok .clearInterrupt
  else .error (.illegalOp (opField c))

/-- R107: every word is one legal command or raises exactly one cause. -/
def decode (c : CmdWord) : Except Cause Instr :=
  match acceptanceCheck c with
  | some e => .error e
  | none => selectCommand c

/-- R102: the opcode numbers. -/
def Instr.opcode : Instr → Byte
  | .begin => 0x01#8
  | .pinMode _ _ => 0x02#8
  | .digitalRead _ => 0x03#8
  | .digitalWrite _ _ => 0x04#8
  | .analogWrite _ _ => 0x05#8
  | .enableInterrupt => 0x06#8
  | .disableInterrupt => 0x07#8
  | .clearInterrupt => 0x08#8

/-- D7: the mode's numeric encoding. -/
def PinMode.toArg : PinMode → Byte
  | .output => 0x00#8
  | .input => 0x01#8

/-- R102: the pin field (0 for the four commands without a pin). -/
def Instr.pinOperand : Instr → Byte
  | .begin => 0#8
  | .pinMode pin _ => pin
  | .digitalRead pin => pin
  | .digitalWrite pin _ => pin
  | .analogWrite pin _ => pin
  | .enableInterrupt => 0#8
  | .disableInterrupt => 0#8
  | .clearInterrupt => 0#8

/-- R102: the arg field (0 for the commands without one). -/
def Instr.argOperand : Instr → Byte
  | .begin => 0#8
  | .pinMode _ mode => mode.toArg
  | .digitalRead _ => 0#8
  | .digitalWrite _ value => value
  | .analogWrite _ intensity => intensity
  | .enableInterrupt => 0#8
  | .disableInterrupt => 0#8
  | .clearInterrupt => 0#8

/-- The command word of a command. Like the assembler of R109 it checks no range: an out-of-range pin gives a word that
the acceptance checks refuse. -/
def encode (i : Instr) : CmdWord := packWord i.opcode i.pinOperand i.argOperand

/-- R109: the mode operand of an assembler line, a symbol or a numeral. -/
inductive AsmMode where
  | output
  | input
  | number (n : Byte)
deriving DecidableEq, Repr

/-- R109: the value operand of a digitalWrite line. -/
inductive AsmLevel where
  | high
  | low
  | number (n : Byte)
deriving DecidableEq, Repr

/-- One line of assembler text, its numerals (0–255) read (R109). -/
inductive AsmLine where
  | begin
  | pinMode (pin : Byte) (mode : AsmMode)
  | digitalRead (pin : Byte)
  | digitalWrite (pin : Byte) (value : AsmLevel)
  | analogWrite (pin n : Byte)
  | enableInterrupt
  | disableInterrupt
  | clearInterrupt
deriving DecidableEq, Repr

/-- R109: `OUTPUT` = 0, `INPUT` = 1. -/
def AsmMode.toArg : AsmMode → Byte
  | .output => 0x00#8
  | .input => 0x01#8
  | .number n => n

/-- R109: `HIGH` = 1, `LOW` = 0. -/
def AsmLevel.toArg : AsmLevel → Byte
  | .high => 0x01#8
  | .low => 0x00#8
  | .number n => n

/-- R109: "The assembler encodes the value given without range checking". -/
def assemble : AsmLine → CmdWord
  | .begin => packWord 0x01#8 0#8 0#8
  | .pinMode pin mode => packWord 0x02#8 pin mode.toArg
  | .digitalRead pin => packWord 0x03#8 pin 0#8
  | .digitalWrite pin value => packWord 0x04#8 pin value.toArg
  | .analogWrite pin n => packWord 0x05#8 pin n
  | .enableInterrupt => packWord 0x06#8 0#8 0#8
  | .disableInterrupt => packWord 0x07#8 0#8 0#8
  | .clearInterrupt => packWord 0x08#8 0#8 0#8

/-- One row of spec/opcode_table.json: a word `c` matches when `c &&& mask = value`. -/
structure TableRow where
  mask : CmdWord
  value : CmdWord
deriving DecidableEq, Repr

/-- The row of spec/opcode_table.json (`mask`, `match`) a command belongs to. -/
def Instr.tableRow : Instr → TableRow
  | .begin => ⟨0xFFFFFF#24, 0x010000#24⟩
  | .pinMode _ _ => ⟨0xFFF0FE#24, 0x020000#24⟩
  | .digitalRead _ => ⟨0xFFF0FF#24, 0x030000#24⟩
  | .digitalWrite _ _ => ⟨0xFFF000#24, 0x040000#24⟩
  | .analogWrite _ _ => ⟨0xFFF000#24, 0x050000#24⟩
  | .enableInterrupt => ⟨0xFFFFFF#24, 0x060000#24⟩
  | .disableInterrupt => ⟨0xFFFFFF#24, 0x070000#24⟩
  | .clearInterrupt => ⟨0xFFFFFF#24, 0x080000#24⟩

/-- The table's eight rows, in its order. -/
def opcodeTable : List TableRow :=
  [Instr.begin.tableRow, (Instr.pinMode 0 .output).tableRow, (Instr.digitalRead 0).tableRow,
   (Instr.digitalWrite 0 0).tableRow, (Instr.analogWrite 0 0).tableRow, Instr.enableInterrupt.tableRow,
   Instr.disableInterrupt.tableRow, Instr.clearInterrupt.tableRow]

def TableRow.matches (r : TableRow) (c : CmdWord) : Bool := c &&& r.mask == r.value

/-- The command the decoder reads from a table row's word: `w`'s low `nbits` bits, every higher bit of the 24-bit word
zero. A word with a bit above the 24 of CMD24 is no command (R100: "Only this length exists"). -/
def decodeTableWord (nbits w : Nat) : Option Instr :=
  if w % 2 ^ nbits < 2 ^ 24 then
    match decode (BitVec.ofNat 24 (w % 2 ^ nbits)) with
    | .ok i => some i
    | .error _ => none
  else none

end Sys2Proof
end

