-- ==== Sys2Proof/Config.lean ====
section
/-! DEFINITION. What an implementation fixes (spec/00_scope.md R8) and the model's free constants. -/

namespace Sys2Proof

/-- `P_CHIP_ADDR` (R8, D11): an OPEN parameter of the spec. It has no body, so nothing can be proved of its value.
DESIGN CHOICE, log 2, safe. -/
opaque Config.pChipAddr : ChipAddr

/-- `P_BLINK_EN_BIT` (R8, D13): the bit of register 0x0F that enables the blink function. The spec gives 0 from general
knowledge. PRESUMED, log 3, unsafe. -/
def Config.pBlinkEnBit : BitVec 3 := 0#3

/-- `P_BEGIN_CONFIG` (R8, D14): `1 << P_BLINK_EN_BIT`. -/
def Config.pBeginConfig : Byte := 1#8 <<< Config.pBlinkEnBit.toNat

/-- The value each chip register holds at the start: "unknown" (R39, R252), a draw. A free value: no body. DESIGN CHOICE
for the form of the draw, log 4, safe. -/
opaque Config.chipAtStart : Nat → Byte

/-- The pending interrupt state at the start: "unknown" (R252), a draw. A free value: no body. DESIGN CHOICE for the form
of the draw, log 5, safe. -/
opaque Config.pendingAtStart : Bool

end Sys2Proof
end

