-- ==== Sys2Proof/Machine/Operands.lean ====
section
/-! DEFINITION. The register map (spec/20_memory.md R61), operand assembly (spec/30_encoding.md R101), the register
address decoder (spec/40_address_decode.md R120–R127) and the decode port (R134). Pure functions, no bus access. -/

namespace Sys2Proof.Machine

/-- R61: the 18 mapped register addresses. -/
def mappedAddresses : List Byte :=
  [0x00#8, 0x01#8, 0x02#8, 0x03#8, 0x06#8, 0x07#8, 0x0A#8, 0x0B#8, 0x0E#8, 0x0F#8,
   0x10#8, 0x11#8, 0x12#8, 0x13#8, 0x14#8, 0x15#8, 0x16#8, 0x17#8]

/-- R62: the other addresses hold no register. -/
def isMapped (a : Byte) : Bool := mappedAddresses.contains a

/-- R63: the 16 addresses the block may issue. -/
def issuedAddresses : List Byte :=
  [0x00#8, 0x01#8, 0x02#8, 0x03#8, 0x06#8, 0x07#8, 0x0E#8, 0x0F#8,
   0x10#8, 0x11#8, 0x12#8, 0x13#8, 0x14#8, 0x15#8, 0x16#8, 0x17#8]

/-- R101: "`pin` is used only through its low four bits `pin[3:0]`". -/
def pinIndex (pin : Byte) : PinIndex := pin.extractLsb' 0 4

/-- R120. -/
def group (p : PinIndex) : BitVec 1 := if p.toNat < 8 then 0#1 else 1#1

/-- R121: `p % 8`. -/
def bitpos (p : PinIndex) : BitVec 3 := (p % 8#4).setWidth 3

/-- R121: `1 << bitpos(p)`. -/
def mask (p : PinIndex) : Byte := 1#8 <<< (bitpos p).toNat

/-- R122: the port configuration register. The group comes from the pin alone (90_conflicts.md C1). -/
def configReg (p : PinIndex) : Byte := if group p = 0#1 then 0x06#8 else 0x07#8

/-- R123: the input register. -/
def inputReg (p : PinIndex) : Byte := if group p = 0#1 then 0x00#8 else 0x01#8

/-- R124: INTENSITY_TABLE, nine slots; slot 8 is the global intensity register. -/
def intensityTable : Vector Byte 9 :=
  #v[0x10#8, 0x11#8, 0x12#8, 0x13#8, 0x14#8, 0x15#8, 0x16#8, 0x17#8, 0x0E#8]

/-- R124: `INTENSITY_TABLE[p / 2]`. -/
def intensityReg (p : PinIndex) : Byte := intensityTable[p.toNat / 2]'(by have := p.isLt; omega)

/-- R125: the phase register of a pin and a phase number. -/
def phaseReg (p : PinIndex) (ph : BitVec 1) : Byte :=
  if ph = 0#1 then (if group p = 0#1 then 0x02#8 else 0x03#8)
  else (if group p = 0#1 then 0x0A#8 else 0x0B#8)

/-- R126: 1 = odd pin = high nibble. -/
def nibbleHi (p : PinIndex) : BitVec 1 := (p % 2#4).setWidth 1

/-- R127: fixed addresses. -/
def globalInt : Byte := 0x0E#8
def chipCfg : Byte := 0x0F#8
def in0 : Byte := 0x00#8
def in1 : Byte := 0x01#8
def cfg0 : Byte := 0x06#8
def cfg1 : Byte := 0x07#8
def ph00 : Byte := 0x02#8
def ph01 : Byte := 0x03#8

/-- R127: `INTE_MASK = 1 << 3`. -/
def inteMask : Byte := 1#8 <<< 3

/-- R127: `BLINK_EN_MASK = 1 << P_BLINK_EN_BIT`. -/
def blinkEnMask : Byte := 1#8 <<< Config.pBlinkEnBit.toNat

/-- R64, R75: a read of one of these may acknowledge the pending interrupt state. -/
def isInputReg (a : Byte) : Bool := a == in0 || a == in1

/-- The outputs of the decode port (R134). -/
structure DecodePort where
  dvalid : Bool
  dgroup : BitVec 1
  dbit : BitVec 3
  dmask : Byte
  dcfg : Byte
  dinput : Byte
  dphase : Byte
  dint : Byte
  dhi : BitVec 1
deriving DecidableEq, Repr

/-- R134, D29: `dvalid = (dpin < 16)`; the other outputs are those of `q = dpin[3:0]`, whatever `dvalid` says. -/
def decodePort (dpin : Byte) (dph : BitVec 1) : DecodePort where
  dvalid := decide (dpin.toNat < 16)
  dgroup := group (pinIndex dpin)
  dbit := bitpos (pinIndex dpin)
  dmask := mask (pinIndex dpin)
  dcfg := configReg (pinIndex dpin)
  dinput := inputReg (pinIndex dpin)
  dphase := phaseReg (pinIndex dpin) dph
  dint := intensityReg (pinIndex dpin)
  dhi := nibbleHi (pinIndex dpin)

end Sys2Proof.Machine
end

