-- ==== Sys2Proof/Machine/Flags.lean ====
section
/-! DEFINITION. The bit-field logic, the intensity nibble mapper and the blink-phase bit selector
(spec/40_address_decode.md R128–R133), and the status codes (spec/60_exceptions.md R220, R222). The block has no
condition flags (spec/10_state.md R28). -/

namespace Sys2Proof.Machine

/-- R128: set or clear the bits of the mask `m` in `r`. -/
def writeBit (r m : Byte) (b : Bool) : Byte := if b then r ||| m else r &&& ~~~m

/-- R129: `(r & mask(p)) != 0`. -/
def readBit (r : Byte) (p : PinIndex) : Bool := (r &&& mask p) != 0#8

/-- R130: `min(x, 15)`, 4 bits. -/
def clamp (x : Byte) : Nibble := BitVec.ofNat 4 (min x.toNat 15)

/-- R131: the phase-0 bit and the nibble to store. -/
def phaseSelect (v : Nibble) : Bool × Nibble := if v = 0#4 then (false, 15#4) else (true, v)

/-- R132: odd pin: replace the high nibble; even pin: replace the low nibble. -/
def nibbleMerge (r : Byte) (p : PinIndex) (w : Nibble) : Byte :=
  if nibbleHi p = 1#1 then w ++ r.extractLsb' 0 4 else r.extractLsb' 4 4 ++ w

/-- R133, D8: every nonzero value is high. -/
def dwriteMap (b : Byte) : Byte := if b != 0#8 then 15#8 else 0#8

/-- R101, D7: the bit pinMode writes, 0 = OUTPUT, 1 = INPUT. -/
def modeBit : PinMode → Bool
  | .output => false
  | .input => true

/-- R220: status codes. -/
def statusOk : BitVec 3 := 0#3

/-- R220: the code of a cause. -/
def causeCode : Cause → BitVec 3
  | .busFail _ => 1#3
  | .invalidPin _ => 2#3
  | .illegalOp _ => 3#3
  | .illegalArg _ => 4#3

/-- R222, R224: `fail_step <- (E == BusFail(k)) ? k : 0`. -/
def causeFailStep : Cause → BitVec 3
  | .busFail k => k
  | .invalidPin _ => 0#3
  | .illegalOp _ => 0#3
  | .illegalArg _ => 0#3

end Sys2Proof.Machine
end

