-- ==== Sys2Proof/Machine/State.lean ====
section
/-! DEFINITION. The state of the block, its ports and the chip's side (spec/10_state.md), as plain data, and the state
after reset (spec/70_reset_and_hazards.md R250). -/

namespace Sys2Proof.Machine

/-- Why a step can stop. Each names a state for which the spec has no rule and which no run reaches (log 14, 15); every
error the SPEC names (R220) is a next state, `Machine.raise`. -/
inductive Fault where
  /-- Raised by `runOperation` when `busy = 1` and `step > N(op)`: R33 and R34 cover only `step ≤ N(op)`. Safe. -/
  | stepBeyondOperation
  /-- Raised by `blockTurn` when `busy = 1` and the latched word is no legal command: R106 lets none through. Safe. -/
  | noOperation
  /-- Raised by `transact` for a register address outside R61: R63 says the block never issues one. Safe. -/
  | unmappedRegister
deriving DecidableEq, Repr

/-- Why a step can have no meaning. -/
inductive Refusal where
  /-- Raised by `exec` for an instruction that has no meaning yet; no arm raises it in this model. Safe. -/
  | notModelled (mnemonic : String)
deriving DecidableEq, Repr

/-- The chip's register file as cells (address, value), addresses strictly rising: the 18 registers of R61, each with a
value (R39). There is no register at an unlisted address (R62; log 4). -/
abbrev Memory := List Host.Cell

/-- One draw of the environment: its answer to one transaction (R24, R38) and what it does to the chip with it. -/
structure BusAnswer where
  /-- `bus_ok` (R24). -/
  ok : Bool
  /-- `bus_rdata` (R24), meaningful for a successful read only. -/
  rdata : Byte
  /-- After a failed write: whether the register holds the written value (R84.2, D18). -/
  latched : Bool
  /-- The draw of the pending interrupt state that comes with a read, unless it completes the acknowledgement (R75, R84.1,
  R203, D19; log 12). -/
  pend : Bool
  /-- Register values that come with a SUCCESSFUL transaction beyond what the block wrote (R75: the source is silent on
  read side effects and read-only bits; log 11). -/
  side : List (Byte × Byte)
deriving DecidableEq, Repr

/-- Who moves next, and how, when it is not simply the block (R20). Log 7. -/
inductive OutsideMove where
  /-- The outside lets the block take its step. -/
  | blockStep
  /-- The host has one more command to present (R22). -/
  | present (c : CmdWord)
  /-- The environment will answer one more transaction (R38). -/
  | answer (a : BusAnswer)
  /-- The block's reset is asserted (R250, R251). `latched` and `pend` are the draws for a transaction in flight. -/
  | reset (latched pend : Bool)
  /-- The decode port's inputs are driven (R134). -/
  | drive (dpin : Byte) (dph : BitVec 1)
  /-- A chip register comes to hold a value of the environment's choice (R38: external pins; R252). -/
  | registerDraw (a v : Byte)
  /-- Another bus master writes a chip register (R20.4, R78). -/
  | masterWrite (a v : Byte)
  /-- The environment sets or clears the pending interrupt state (R40, R203, I11). -/
  | pendingDraw (b : Bool)
deriving DecidableEq, Repr

structure State where
  /-- `chip_addr` (R25, R29). -/
  chipAddr : ChipAddr
  /-- `busy` (R25): false = IDLE, true = BUSY. -/
  busy : Bool
  /-- `op` (R25): opcode of the current command. -/
  op : Byte
  /-- `pin` (R25): pin operand of the current command. -/
  pin : Byte
  /-- `arg` (R25): third operand of the current command. -/
  arg : Byte
  /-- `step` (R25, R27): index of the next transaction. -/
  step : BitVec 3
  /-- `rd` (R25): byte of the last successful read of the operation. -/
  rd : Byte
  /-- `v` (R25): effective intensity of the current analogWrite or digitalWrite. -/
  v : Nibble
  /-- `rsp_valid` (R23, R25). -/
  rspValid : Bool
  /-- `status` (R23, R25, R220). -/
  status : BitVec 3
  /-- `result` (R23, R25). -/
  result : Bool
  /-- `fail_step` (R23, R25, R222). -/
  failStep : BitVec 3
  /-- `CHIP` (R39, R61): the chip's registers. -/
  chip : Memory
  /-- `INT_PENDING` (R40, R203): the chip's pending interrupt state. The block cannot read it. -/
  intPending : Bool
  /-- `dpin` (R134): decode port input. -/
  dpin : Byte
  /-- `dph` (R134): decode port input. -/
  dph : BitVec 1
  /-- The host's command words not yet accepted; the first is on the command port (R22). The model's own field, log 8. -/
  commands : List CmdWord
  /-- The environment's answers to the transactions to come; none: unanswered (R38, R263). The model's own field, log 6. -/
  answers : List BusAnswer
  /-- Who moves next (R20); none: the block. The model's own field, log 7. -/
  outside : List OutsideMove
deriving DecidableEq, Repr

/-- R250. `op`, `pin`, `arg`, `step`, `rd`, `v` are "unspecified": DESIGN CHOICE 0, log 1, unsafe. Each of
the 18 chip registers and `INT_PENDING` holds an unknown value, a free constant (R39, R252; log 4, log 5, safe). Decode
port inputs: log 16. Nothing is presented, answered or scheduled: logs 6, 7, 8, 10. -/
def State.reset : State where
  chipAddr := Config.pChipAddr
  busy := false
  op := 0#8
  pin := 0#8
  arg := 0#8
  step := 0#3
  rd := 0#8
  v := 0#4
  rspValid := false
  status := 0#3
  result := false
  failStep := 0#3
  chip := mappedAddresses.map fun a => (a.toNat, Config.chipAtStart a.toNat)
  intPending := Config.pendingAtStart
  dpin := 0#8
  dph := 0#1
  commands := []
  answers := []
  outside := []

/-- `cmd_valid` (R22). -/
def State.cmdValid (s : State) : Bool := !s.commands.isEmpty

/-- `cmd` with `cmd_valid` (R22): the word on the command port, if one is presented. -/
def State.cmd (s : State) : Option CmdWord := s.commands.head?

/-- `cmd_ready` (R22): "1 exactly when the sequencer is IDLE". -/
def State.cmdReady (s : State) : Bool := !s.busy

end Sys2Proof.Machine
end

