-- ==== Sys2Proof/Machine/Ops.lean ====
section
/-! DEFINITION. The named operations: the chip's registers as memory (spec/20_memory.md), one transaction (R12, R13,
R33, R84, R203), acceptance (R32), completion (R34), the ONE shared error entry (R14, R35, R224), reset (R250, R251),
and the sequencer that runs an operation's transactions in order. There is no return-from-error operation (R225): the
next acceptance takes the block on. -/

namespace Sys2Proof.Machine

/-! ## The chip's registers -/

/-- The value of the register at `a`; `none` where there is no register (R62). -/
def Memory.read : Memory → Nat → Option Byte
  | [], _ => none
  | (b, w) :: m, a => if a = b then some w else Memory.read m a

/-- `CHIP[a] <- v`, keeping the addresses strictly rising. -/
def Memory.write : Memory → Nat → Byte → Memory
  | [], a, v => [(a, v)]
  | (b, w) :: m, a, v =>
    if a < b then (a, v) :: (b, w) :: m
    else if a = b then (a, v) :: m
    else (b, w) :: Memory.write m a v

/-- The canonical form: one entry for each of the 18 mapped registers (R61), addresses strictly rising. An unlisted address
holds no register, so no entry can equal what an unlisted address reads as. -/
def Memory.wf (m : Memory) : Bool := m.map Prod.fst == mappedAddresses.map BitVec.toNat

/-- A register comes to hold `v`, if there is a register at `a` (R61, R62; log 15). -/
def Memory.set (m : Memory) (a v : Byte) : Memory := if isMapped a then m.write a.toNat v else m

/-- The register changes that come with a successful transaction (R75; log 11), in order. -/
def Memory.setAll (m : Memory) : List (Byte × Byte) → Memory
  | [] => m
  | (a, v) :: cs => Memory.setAll (m.set a v) cs

/-! ## Transactions -/

/-- `MemRead(a, 1)` or `MemWrite(a, 1, v)` (R12, R13). -/
inductive Transaction where
  | read (a : Byte)
  | write (a v : Byte)
deriving DecidableEq, Repr

/-- One entry of an operation rule: its transaction, the value latched into `v` with it (R172 only), and whether it is
the second of two acknowledging reads (R203). -/
structure TxAction where
  tx : Transaction
  latchV : Option Nibble := none
  acks : Bool := false
deriving DecidableEq, Repr

/-- An operation rule: the action of each transaction index, computed from `rd` and `v` (R33). Its length is N(op)
(R262). -/
abbrev Microcode := List (Byte → Nibble → TxAction)

/-- What the block drives on the bus port with `bus_req_valid = 1` (R24); `bus_chip` is always `chip_addr` (R85). -/
inductive BusRequest where
  | read (chip : ChipAddr) (addr : Byte)
  | write (chip : ChipAddr) (addr wdata : Byte)
deriving DecidableEq, Repr

def Transaction.addr : Transaction → Byte
  | .read a => a
  | .write a _ => a

def BusRequest.addr : BusRequest → Byte
  | .read _ a => a
  | .write _ a _ => a

/-- R12, R13, R24: the request a transaction presents. -/
def Transaction.request (chip : ChipAddr) : Transaction → BusRequest
  | .read a => .read chip a
  | .write a v => .write chip a v

/-- The chip's registers after the answer `ans`: a successful write stores (R75), a failed one stores or not (R84.2), a
failed read changes nothing (R84.1); a success brings the environment's own changes (R75; log 11). -/
def chipAfter (t : Transaction) (ans : BusAnswer) (m : Memory) : Memory :=
  match t with
  | .read _ => if ans.ok then m.setAll ans.side else m
  | .write a v =>
    if ans.ok then (m.set a v).setAll ans.side
    else if ans.latched then m.set a v else m

/-- The pending interrupt state after the answer: a successful second acknowledging read clears it (R203); any other
read, of any register and a failed one too, leaves a draw (R75, R84.1, R203, D19, I13), but a read of 0x0F may only set it,
since R205 has it "not acknowledged" by the read-modify-write; a write leaves it (R205). DEDUCED, log 12. -/
def pendingAfter (act : TxAction) (ans : BusAnswer) (p : Bool) : Bool :=
  match act.tx with
  | .read a =>
    if isInputReg a then
      if ans.ok && act.acks then false else ans.pend
    else if a == chipCfg then p || ans.pend
    else ans.pend
  | .write _ _ => p

/-- R12.4: the byte a successful read returns is latched into `rd`; a write latches nothing. -/
def rdAfter (t : Transaction) (ans : BusAnswer) (rd : Byte) : Byte :=
  match t with
  | .read _ => ans.rdata
  | .write _ _ => rd

/-- The environment's side of a transaction: its answer is used up, the chip and the pending state change. -/
def answered (act : TxAction) (ans : BusAnswer) (rest : List BusAnswer) (s : State) : State :=
  { s with
    answers := rest
    chip := chipAfter act.tx ans s.chip
    intPending := pendingAfter act ans s.intPending }

/-- The block's side of a successful transaction (R33): latch updates, then `step <- step + 1` (R12.4, R13.4). -/
def advance (act : TxAction) (ans : BusAnswer) (s : State) : State :=
  { s with
    rd := rdAfter act.tx ans s.rd
    v := act.latchV.getD s.v
    step := s.step + 1#3 }

/-! ## Errors, acceptance, completion, reset -/

/-- Error entry, the one shared operation (R14, R35, R224). Nothing else changes: no rollback, no retry (R226). -/
def raise (e : Cause) (s : State) : State :=
  { s with
    status := causeCode e
    result := false
    failStep := causeFailStep e
    rspValid := true
    busy := false }

/-- R32.1–2: the word is latched and the response withdrawn. The host's word is used up (R82; log 8). -/
def latchCommand (c : CmdWord) (s : State) : State :=
  { s with
    op := opField c
    pin := pinField c
    arg := argField c
    rspValid := false
    commands := s.commands.tail }

/-- R32.4: `busy <- 1`, `step <- 0`. -/
def startOperation (s : State) : State :=
  { s with
    busy := true
    step := 0#3 }

/-- R32.3: a word that fails a check; the block stays IDLE and issues nothing. -/
def reject (c : CmdWord) (e : Cause) (s : State) : State := raise e (latchCommand c s)

/-- R32: acceptance of the command word `c` by the IDLE block. -/
def accept (c : CmdWord) (s : State) : State :=
  match acceptanceCheck c with
  | some e => reject c e s
  | none => startOperation (latchCommand c s)

/-- R34: completion. -/
def complete (result : Bool) (s : State) : State :=
  { s with
    status := statusOk
    result := result
    failStep := 0#3
    rspValid := true
    busy := false }

/-- One transaction (R12, R13, R33): wait while unanswered (R263); on success the latch updates and the next index; on
failure `raise BusFail(step)`. -/
def transact (act : TxAction) (s : State) : Host.Outcome State Fault Refusal :=
  if isMapped act.tx.addr then
    match s.answers with
    | [] => .next s
    | ans :: rest =>
      if ans.ok then .next (advance act ans (answered act ans rest s))
      else .next (raise (.busFail s.step) (answered act ans rest s))
  else .fault .unmappedRegister

/-- One step of the operation `code` of the command `i` (R32–R35): acceptance when IDLE; the transaction of index
`step`, or completion, when BUSY. `result` is what the operation rule makes of `rd` at completion (R34). -/
def runOperation (i : Instr) (code : Microcode) (result : Byte → Bool) (s : State) : Host.Outcome State Fault Refusal :=
  if s.busy then
    match code[s.step.toNat]? with
    | some action => transact (action s.rd s.v) s
    | none =>
      if s.step.toNat = code.length then .next (complete (result s.rd) s)
      else .fault .stepBeyondOperation
  else .next (accept (encode i) s)

/-- R250: the block's registers after reset; the latches as in `State.reset` (log 1, log 17). What lies outside the block
(the chip, the ports' inputs) is untouched. -/
def resetBlock (s : State) : State :=
  { s with
    chipAddr := Config.pChipAddr
    busy := false
    op := 0#8
    pin := 0#8
    arg := 0#8
    step := 0#3
    rd := 0#8
    v := 0#4
    rspValid := false
    status := 0#3
    result := false
    failStep := 0#3 }

end Sys2Proof.Machine
end

