-- ==== Sys2Proof/Machine/Init.lean ====
section
/-! DEFINITION. Initialisation (spec/41_init.md): begin. -/

namespace Sys2Proof.Machine

/-- R160: six writes, no read, in this order. -/
def beginCode : Microcode :=
  [fun _ _ => { tx := .write cfg0 0x00#8 },
   fun _ _ => { tx := .write cfg1 0x00#8 },
   fun _ _ => { tx := .write ph00 0xFF#8 },
   fun _ _ => { tx := .write ph01 0xFF#8 },
   fun _ _ => { tx := .write chipCfg Config.pBeginConfig },
   fun _ _ => { tx := .write globalInt 0xFF#8 }]

/-- R160. -/
def execBegin (s : State) : Host.Outcome State Fault Refusal :=
  runOperation .begin beginCode (fun _ => false) s

end Sys2Proof.Machine
end

