-- ==== Sys2Proof/Machine/InterruptOps.lean ====
section
/-! DEFINITION. Interrupt control (spec/43_interrupt_ops.md): enableInterrupt, disableInterrupt, clearInterrupt. -/

namespace Sys2Proof.Machine

/-- R202, R203: the two acknowledging reads, 0x00 then 0x01 (D16); the second completes the acknowledgement. -/
def ackReads : Microcode :=
  [fun _ _ => { tx := .read in0 },
   fun _ _ => { tx := .read in1, acks := true }]

/-- R200, R201: read-modify-write of bit 3 of the chip configuration register. -/
def writeInte (b : Bool) : Microcode :=
  [fun _ _ => { tx := .read chipCfg },
   fun rd _ => { tx := .write chipCfg (writeBit rd inteMask b) }]

/-- R200. -/
def enableInterruptCode : Microcode := writeInte true ++ ackReads

/-- R200. -/
def execEnableInterrupt (s : State) : Host.Outcome State Fault Refusal :=
  runOperation .enableInterrupt enableInterruptCode (fun _ => false) s

/-- R201. -/
def disableInterruptCode : Microcode := writeInte false ++ ackReads

/-- R201. -/
def execDisableInterrupt (s : State) : Host.Outcome State Fault Refusal :=
  runOperation .disableInterrupt disableInterruptCode (fun _ => false) s

/-- R202: no write; the bytes read are discarded. -/
def clearInterruptCode : Microcode := ackReads

/-- R202. -/
def execClearInterrupt (s : State) : Host.Outcome State Fault Refusal :=
  runOperation .clearInterrupt clearInterruptCode (fun _ => false) s

end Sys2Proof.Machine
end

