-- ==== Sys2Proof/Machine/PinOps.lean ====
section
/-! DEFINITION. Pin operations (spec/42_pin_ops.md): pinMode, digitalRead, analogWrite, digitalWrite. -/

namespace Sys2Proof.Machine

/-- R170: read-modify-write of the pin's bit in its port configuration register. -/
def pinModeCode (p : PinIndex) (mode : PinMode) : Microcode :=
  [fun _ _ => { tx := .read (configReg p) },
   fun rd _ => { tx := .write (configReg p) (writeBit rd (mask p) (modeBit mode)) }]

/-- R170. -/
def execPinMode (pin : Byte) (mode : PinMode) (s : State) : Host.Outcome State Fault Refusal :=
  runOperation (.pinMode pin mode) (pinModeCode (pinIndex pin) mode) (fun _ => false) s

/-- R171: one read of the pin's input register. -/
def digitalReadCode (p : PinIndex) : Microcode :=
  [fun _ _ => { tx := .read (inputReg p) }]

/-- R171: the result is the pin's bit. -/
def execDigitalRead (pin : Byte) (s : State) : Host.Outcome State Fault Refusal :=
  runOperation (.digitalRead pin) (digitalReadCode (pinIndex pin)) (fun rd => readBit rd (pinIndex pin)) s

/-- R172: phase correction, then the intensity write, for the raw intensity `x`. `v` is latched with transaction 0
(log 13). -/
def analogWriteCode (p : PinIndex) (x : Byte) : Microcode :=
  [fun _ _ => { tx := .read (phaseReg p 0#1), latchV := some (phaseSelect (clamp x)).2 },
   fun rd _ => { tx := .write (phaseReg p 0#1) (writeBit rd (mask p) (phaseSelect (clamp x)).1) },
   fun _ _ => { tx := .read (intensityReg p) },
   fun rd v => { tx := .write (intensityReg p) (nibbleMerge rd p v) }]

/-- R172. -/
def execAnalogWrite (pin intensity : Byte) (s : State) : Host.Outcome State Fault Refusal :=
  runOperation (.analogWrite pin intensity) (analogWriteCode (pinIndex pin) intensity) (fun _ => false) s

/-- R173: "then exactly the pseudocode of rule R172" with `x = dwrite_map(b)`. -/
def digitalWriteCode (p : PinIndex) (b : Byte) : Microcode := analogWriteCode p (dwriteMap b)

/-- R173. -/
def execDigitalWrite (pin value : Byte) (s : State) : Host.Outcome State Fault Refusal :=
  runOperation (.digitalWrite pin value) (digitalWriteCode (pinIndex pin) value) (fun _ => false) s

end Sys2Proof.Machine
end

