-- ==== Sys2Proof/Machine/Dispatch.lean ====
section
/-! DEFINITION. The meaning of every command: one step of the sequencer running it (R32–R35). -/

namespace Sys2Proof.Machine

def exec (i : Instr) (s : State) : Host.Outcome State Fault Refusal :=
  match i with
  | .begin => Sys2Proof.Machine.execBegin s
  | .pinMode pin mode => Sys2Proof.Machine.execPinMode pin mode s
  | .digitalRead pin => Sys2Proof.Machine.execDigitalRead pin s
  | .digitalWrite pin value => Sys2Proof.Machine.execDigitalWrite pin value s
  | .analogWrite pin intensity => Sys2Proof.Machine.execAnalogWrite pin intensity s
  | .enableInterrupt => Sys2Proof.Machine.execEnableInterrupt s
  | .disableInterrupt => Sys2Proof.Machine.execDisableInterrupt s
  | .clearInterrupt => Sys2Proof.Machine.execClearInterrupt s

end Sys2Proof.Machine
end

