-- ==== Sys2Proof/Machine/Bus.lean ====
section
/-! DEFINITION. What the BUSY block presents on the bus port (spec/10_state.md R24, R33), and the open read-modify-write
window (R41). -/

namespace Sys2Proof.Machine

/-- The operation rule of each command: its transactions by index. -/
def microcode : Instr → Microcode
  | .begin => beginCode
  | .pinMode pin mode => pinModeCode (pinIndex pin) mode
  | .digitalRead pin => digitalReadCode (pinIndex pin)
  | .digitalWrite pin value => digitalWriteCode (pinIndex pin) value
  | .analogWrite pin intensity => analogWriteCode (pinIndex pin) intensity
  | .enableInterrupt => enableInterruptCode
  | .disableInterrupt => disableInterruptCode
  | .clearInterrupt => clearInterruptCode

/-- N(op) of R262: the length of the operation rule. -/
def transactionCount (i : Instr) : Nat := (microcode i).length

/-- R34: `result` at completion, 0 for every operation but digitalRead (R171, D30). -/
def resultOf : Instr → Byte → Bool
  | .begin, _ => false
  | .pinMode _ _, _ => false
  | .digitalRead pin, rd => readBit rd (pinIndex pin)
  | .digitalWrite _ _, _ => false
  | .analogWrite _ _, _ => false
  | .enableInterrupt, _ => false
  | .disableInterrupt, _ => false
  | .clearInterrupt, _ => false

/-- The current command's word, from the latches `op`, `pin`, `arg` (R32.1). -/
def latchedWord (s : State) : CmdWord := packWord s.op s.pin s.arg

/-- The action of index `step` of the operation in flight; none when IDLE or when only completion is left. -/
def currentAction (s : State) : Option TxAction :=
  if s.busy then
    match decode (latchedWord s) with
    | .ok i =>
      match (microcode i)[s.step.toNat]? with
      | some action => some (action s.rd s.v)
      | none => none
    | .error _ => none
  else none

/-- The bus port's outputs (R24): `none` is `bus_req_valid = 0`. -/
def busRequest (s : State) : Option BusRequest :=
  match currentAction s with
  | some act => some (act.tx.request s.chipAddr)
  | none => none

/-- R41: the register whose read-modify-write window is open: its read has succeeded and its write is the transaction of
index `step`. Log 22. -/
def rmwWindow (s : State) : Option Byte :=
  if s.busy then
    match decode (latchedWord s) with
    | .ok i =>
      match s.step.toNat with
      | 0 => none
      | k + 1 =>
        match (microcode i)[k]?, (microcode i)[k + 1]? with
        | some before, some now =>
          match (before s.rd s.v).tx, (now s.rd s.v).tx with
          | .read a, .write b _ => if a = b then some a else none
          | _, _ => none
        | _, _ => none
    | .error _ => none
  else none

end Sys2Proof.Machine
end

