-- ==== Sys2Proof/Machine/Outside.lean ====
section
/-! DEFINITION. The moves of the agents outside the block (spec/10_state.md R20, R22, R38, R40) and the assertion of its
reset (spec/70_reset_and_hazards.md R250, R251). -/

namespace Sys2Proof.Machine

/-- R251: a transaction in flight at reset "ends as a failed transaction does" (R84), with these draws. -/
def abandonInFlight (latched pend : Bool) (s : State) : State :=
  match currentAction s with
  | some act =>
    { s with
      chip := chipAfter act.tx ⟨false, 0#8, latched, pend, []⟩ s.chip
      intPending := pendingAfter act ⟨false, 0#8, latched, pend, []⟩ s.intPending }
  | none => s

/-- One move of the outside. A register the environment or another master changes is one of R61: what an access to an
unmapped address does to the chip is in no source (R62, I5), and any change it makes is a move of its own (log 15).
DESIGN CHOICE (log 23, safe): R64 leaves open whether the input registers 0x00 and 0x01 are writable; a `masterWrite` to
one of them stores the byte as for every register, and a write the chip does not take is a run without that move. -/
def outsideMove (m : OutsideMove) (s : State) : State :=
  match m with
  | .blockStep => s
  | .present c => { s with commands := s.commands ++ [c] }
  | .answer a => { s with answers := s.answers ++ [a] }
  | .reset latched pend => resetBlock (abandonInFlight latched pend s)
  | .drive dpin dph => { s with dpin := dpin, dph := dph }
  | .registerDraw a v => { s with chip := s.chip.set a v }
  | .masterWrite a v => { s with chip := s.chip.set a v }
  | .pendingDraw b => { s with intPending := b }

end Sys2Proof.Machine
end

