-- ==== Sys2Proof/Machine/Turn.lean ====
section
/-! DEFINITION. One step of the machine (spec/10_state.md R20, R32–R35): whose turn it is, and the block's own step. -/

namespace Sys2Proof.Machine

/-- The block's step. BUSY: the next step of the latched command (R33, R34). IDLE: acceptance of the word on the command
port (R32), or waiting for one (R253). While BUSY no word is accepted (R22, R37). -/
def blockTurn (s : State) : Host.Outcome State Fault Refusal :=
  if s.busy then
    match decode (latchedWord s) with
    | .ok i => exec i s
    | .error _ => .fault .noOperation
  else
    match s.cmd with
    | none => .next s
    | some c =>
      match decode c with
      | .ok i => exec i s
      | .error e => .next (reject c e s)

/-- The block moves when nothing else is scheduled or when the outside yields; otherwise the outside's move happens
(R20; log 7). -/
def turn (s : State) : Host.Outcome State Fault Refusal :=
  match s.outside with
  | [] => blockTurn s
  | .blockStep :: rest => blockTurn { s with outside := rest }
  | .present c :: rest => .next (outsideMove (.present c) { s with outside := rest })
  | .answer a :: rest => .next (outsideMove (.answer a) { s with outside := rest })
  | .reset latched pend :: rest => .next (outsideMove (.reset latched pend) { s with outside := rest })
  | .drive dpin dph :: rest => .next (outsideMove (.drive dpin dph) { s with outside := rest })
  | .registerDraw a v :: rest => .next (outsideMove (.registerDraw a v) { s with outside := rest })
  | .masterWrite a v :: rest => .next (outsideMove (.masterWrite a v) { s with outside := rest })
  | .pendingDraw b :: rest => .next (outsideMove (.pendingDraw b) { s with outside := rest })

/-- The word `w` of `nbits` bits put on the command port of an IDLE block whose turn it is; the words the host has
presented or still presents behind it stay. Log 10. -/
def presentWord (s : State) (nbits w : Nat) : State :=
  { s with
    busy := false
    commands := BitVec.ofNat 24 (w % 2 ^ nbits) :: s.commands.tail
    outside := [] }

end Sys2Proof.Machine
end

