-- ==== Sys2Proof/Machine/Step.lean ====
section
/-! DEFINITION. The machine's step, and a command placed where the next step takes it. -/

namespace Sys2Proof.Machine

/-- One step: the acceptance of a command, one answered transaction, one completion or abort, one wait, or one move of
the outside (D1, R20, R32–R35). -/
def step (s : State) : Host.Outcome State Fault Refusal := turn s

/-- The block has no program memory (R82): its "fetch" is the command port (R22, R27). -/
def State.withFetchWord (s : State) (nbits w : Nat) : State := presentWord s nbits w

end Sys2Proof.Machine
end

