-- ==== Sys2Proof/Machine/Reference.lean ====
section
/-! DEFINITION. The reference environment (spec/20_memory.md R80): deterministic, FOR TEST VECTORS ONLY. Its `CHIP[a]` is
the state's `chip`; the machine itself is `step`, over unconstrained answers (R38). -/

namespace Sys2Proof.Machine

structure RefEnv where
  /-- `IN0`, what a read of 0x00 returns. -/
  in0Byte : Byte
  /-- `IN1`, what a read of 0x01 returns. -/
  in1Byte : Byte
  /-- `F`: global indices of the transactions that fail. -/
  faults : List Nat
  /-- The global index of the next transaction, counted from 0 over the run. -/
  index : Nat
  /-- What every draw of the pending interrupt state gives here: R80 says nothing of it (log 19). -/
  pendDraw : Bool
deriving DecidableEq, Repr

/-- R80.2, R80.3: the byte a successful read of `a` returns; where a state lists no register at `a`, the start value (log 19). -/
def refReadByte (e : RefEnv) (chip : Memory) (a : Byte) : Byte :=
  if a = in0 then e.in0Byte
  else if a = in1 then e.in1Byte
  else (chip.read a.toNat).getD (Config.chipAtStart a.toNat)

/-- R80.1–4: the answer to a request. A failed write leaves the prior value. -/
def refAnswer (e : RefEnv) (chip : Memory) (r : BusRequest) : BusAnswer where
  ok := !e.faults.contains e.index
  rdata := refReadByte e chip r.addr
  latched := false
  pend := e.pendDraw
  side := []

/-- One step in the reference environment: a request is answered at once (R80). R80.5 excludes other masters only; that
no other move of the outside happens either (no word is presented beyond those in `commands`, no reset, no drive of the
decode port, no draw of the pending state), and that answers prepared in the state are not used, is the model's DESIGN
CHOICE (log 24, safe). -/
def refStep (e : RefEnv) (s : State) : RefEnv × Host.Outcome State Fault Refusal :=
  match busRequest s with
  | some r => ({ e with index := e.index + 1 }, step { s with answers := [refAnswer e s.chip r], outside := [] })
  | none => (e, step { s with outside := [] })

/-- `n` steps in the reference environment, stopping at a fault or refusal. R80.5: no other master exists. -/
def refRun : Nat → RefEnv → State → RefEnv × Host.Outcome State Fault Refusal
  | 0, e, s => (e, .next s)
  | n + 1, e, s =>
    match refStep e s with
    | (e', .next s') => refRun n e' s'
    | (e', .fault f) => (e', .fault f)
    | (e', .refused r) => (e', .refused r)

end Sys2Proof.Machine
end

