-- ==== Sys2Proof/Machine/Whole.lean ====
section
/-! DEFINITION. The whole-operation view (spec/10_state.md R36): one command's observable effect as a function of the
command word, `chip_addr` and the environment's answers; and the same observation of a run of `step`. -/

namespace Sys2Proof.Machine

/-- The response port while `rsp_valid = 1` (R23). -/
structure Response where
  status : BitVec 3
  result : Bool
  failStep : BitVec 3
deriving DecidableEq, Repr

/-- R36: the transactions issued and answered, in order, and the response; no response while a transaction waits for its
answer (R263). -/
structure Observation where
  requests : List BusRequest
  response : Option Response
deriving DecidableEq, Repr

/-- How many steps of the block an observation takes: acceptance, each answered transaction, and completion where the
command ends with OK (R32–R35). -/
def Observation.steps (o : Observation) : Nat :=
  1 + o.requests.length +
    match o.response with
    | some r => if r.status = statusOk then 1 else 0
    | none => 0

/-- Is it a read request? -/
def BusRequest.isRead : BusRequest → Bool
  | .read _ _ => true
  | .write _ _ _ => false

/-- R224: the response of an error. -/
def errorResponse (e : Cause) : Response := ⟨causeCode e, false, causeFailStep e⟩

/-- The rest of an operation from transaction `k` on, `rd` and `v` being the latches. -/
def observeFrom (chip : ChipAddr) (result : Byte → Bool) :
    Microcode → BitVec 3 → Byte → Nibble → List BusAnswer → Observation
  | [], _, rd, _, _ => ⟨[], some ⟨statusOk, result rd, 0#3⟩⟩
  | _ :: _, _, _, _, [] => ⟨[], none⟩
  | action :: code, k, rd, v, ans :: rest =>
    let act := action rd v
    if ans.ok then
      let later := observeFrom chip result code (k + 1#3) (rdAfter act.tx ans rd) (act.latchV.getD v) rest
      ⟨act.tx.request chip :: later.requests, later.response⟩
    else ⟨[act.tx.request chip], some (errorResponse (.busFail k))⟩

/-- R36: what the command word `c` does. No latch holds a value the operation may read (R31); 0 stands for them. -/
def observeCommand (c : CmdWord) (chip : ChipAddr) (answers : List BusAnswer) : Observation :=
  match decode c with
  | .ok i => observeFrom chip (resultOf i) (microcode i) 0#3 0#8 0#4 answers
  | .error e => ⟨[], some (errorResponse e)⟩

/-- The transaction that the next step completes, if it is the block's turn and its request is answered. -/
def transactionNow (s : State) : Option BusRequest :=
  match s.outside with
  | [] =>
    match s.answers with
    | [] => none
    | _ :: _ => busRequest s
  | .blockStep :: _ =>
    match s.answers with
    | [] => none
    | _ :: _ => busRequest s
  | _ :: _ => none

/-- The response port (R23). -/
def responsePort (s : State) : Option Response :=
  if s.rspValid then some ⟨s.status, s.result, s.failStep⟩ else none

/-- The transactions of the first `n` steps from `s`, in order. -/
def transcript : Nat → State → List BusRequest
  | 0, _ => []
  | n + 1, s =>
    match step s with
    | .next s' => (transactionNow s).toList ++ transcript n s'
    | .fault _ => []
    | .refused _ => []

end Sys2Proof.Machine
end

