-- ==== Sys2Proof/Safety.lean ====
section
/-! DEFINITION. The terms claims use: the invariant of the machine, what a safe run is, and the state components a frame
speaks of. -/

namespace Sys2Proof.Machine

/-- The operation in flight is one the spec's rules cover: the latched word is a legal command (R106), `step` has not
passed N(op) (R27, R33, R34), and once transaction 0 of an analogWrite or digitalWrite has succeeded, `v` is its
effective intensity (R25, R172). -/
def operationCovered (s : State) : Prop :=
  ∃ i, decode (latchedWord s) = .ok i ∧ s.step.toNat ≤ transactionCount i ∧
    match i with
    | .analogWrite _ x => s.step ≠ 0#3 → s.v = (phaseSelect (clamp x)).2
    | .digitalWrite _ b => s.step ≠ 0#3 → s.v = (phaseSelect (clamp (dwriteMap b))).2
    | _ => True

/-- The response fields hold what a reset, a completion or an abort leaves (R34, R220, R222, R224). -/
def responseCovered (s : State) : Prop :=
  s.status.toNat ≤ 4 ∧ (s.status ≠ 1#3 → s.failStep = 0#3) ∧ (s.result = true → s.status = 0#3) ∧ s.failStep.toNat ≤ 5

/-- The machine's invariant: the chip's registers are in canonical form; while BUSY the operation is covered by the rules
and no response is presented (R32.2); the response fields are covered; `chip_addr` is the constant it was constructed
with (R25, R29). -/
structure MachineInv (s : State) : Prop where
  chip_wf : s.chip.wf = true
  chipAddr_fixed : s.chipAddr = Config.pChipAddr
  operation : s.busy = true → operationCovered s
  no_response : s.busy = true → s.rspValid = false
  response : responseCovered s

/-- A safe run: no step stops the machine. -/
def safeRun (n : Nat) (s : State) : Prop := ∃ t, Sys2Proof.core.run n s = .next t

/-- The register the transaction of index `step` of the command `i` stores to, if it is a write: the address the meaning
of `i` computes. -/
def storedRegister (i : Instr) (s : State) : Option Byte :=
  match (microcode i)[s.step.toNat]? with
  | some action =>
    match (action s.rd s.v).tx with
    | .read _ => none
    | .write a _ => some a
  | none => none

/-- The register the transaction of index `step` of the command `i` reads, if it is a read. -/
def readRegister (i : Instr) (s : State) : Option Byte :=
  match (microcode i)[s.step.toNat]? with
  | some action =>
    match (action s.rd s.v).tx with
    | .read a => some a
    | .write _ _ => none
  | none => none

/-- The environment's next answer brings no change of its own to the register at `r` (R75). -/
def sideSpares (s : State) (r : Nat) : Prop :=
  ∀ ans rest, s.answers = ans :: rest → ∀ c ∈ ans.side, c.1.toNat ≠ r

/-- The six writes of begin, in order (R160). -/
def beginWrites : List (Byte × Byte) :=
  [(0x06#8, 0x00#8), (0x07#8, 0x00#8), (0x02#8, 0xFF#8), (0x03#8, 0xFF#8), (0x0F#8, Config.pBeginConfig),
   (0x0E#8, 0xFF#8)]

/-- The next `n` transactions of the reference environment do not fail (R80.1). -/
def noFaults (e : RefEnv) (n : Nat) : Prop := ∀ k, e.index ≤ k → k < e.index + n → k ∉ e.faults

end Sys2Proof.Machine
end

