-- ==== Sys2Proof/Certificates/Slice0/Obligations.lean ====
section
/-! DEFINITION. The statements for the provers: encoding, the step relation, every command run to its completion, the
error and partial states, the chip's registers, the invariant, the whole-operation view. -/

open Sys2Proof Sys2Proof.Machine

/-! ## Encoding (30_encoding.md) -/

/-- Decoding the word of a well-formed command gives the command back, every operand at every value. -/
def Obligations.DecodeOfEncodeIsTheCommand : Prop :=
  ∀ i : Instr, i.wellFormed = true → decode (encode i) = .ok i

/-- A word that decodes is the word of the command it decodes to, and that command is well-formed: each legal word has
one meaning, and no bit of it is dropped. -/
def Obligations.LegalWordHasOneMeaning : Prop :=
  ∀ (c : CmdWord) (i : Instr), decode c = .ok i → i.wellFormed = true ∧ encode i = c

/-- The decoder accepts exactly the words that match a row of spec/opcode_table.json, and no word matches two rows. -/
def Obligations.DecodingAgreesWithTheOpcodeTable : Prop :=
  ∀ c : CmdWord,
    ((∃ i, decode c = .ok i) ↔ ∃ r ∈ opcodeTable, r.matches c = true) ∧
    (∀ r ∈ opcodeTable, ∀ q ∈ opcodeTable, r.matches c = true → q.matches c = true → r = q)

/-- R110: the twelve example lines, the word each assembles to, and what the word decodes to. -/
def Obligations.SpecExampleWordsDecode : Prop :=
  assemble .begin = 0x010000#24 ∧ decode 0x010000#24 = .ok .begin ∧
  assemble (.pinMode 4#8 .input) = 0x020401#24 ∧ decode 0x020401#24 = .ok (.pinMode 4#8 .input) ∧
  assemble (.pinMode 12#8 .output) = 0x020C00#24 ∧ decode 0x020C00#24 = .ok (.pinMode 12#8 .output) ∧
  assemble (.digitalRead 9#8) = 0x030900#24 ∧ decode 0x030900#24 = .ok (.digitalRead 9#8) ∧
  assemble (.digitalWrite 5#8 .high) = 0x040501#24 ∧ decode 0x040501#24 = .ok (.digitalWrite 5#8 1#8) ∧
  assemble (.digitalWrite 5#8 .low) = 0x040500#24 ∧ decode 0x040500#24 = .ok (.digitalWrite 5#8 0#8) ∧
  assemble (.analogWrite 3#8 8#8) = 0x050308#24 ∧ decode 0x050308#24 = .ok (.analogWrite 3#8 8#8) ∧
  assemble (.analogWrite 7#8 200#8) = 0x0507C8#24 ∧ decode 0x0507C8#24 = .ok (.analogWrite 7#8 200#8) ∧
  assemble .enableInterrupt = 0x060000#24 ∧ decode 0x060000#24 = .ok .enableInterrupt ∧
  assemble .disableInterrupt = 0x070000#24 ∧ decode 0x070000#24 = .ok .disableInterrupt ∧
  assemble .clearInterrupt = 0x080000#24 ∧ decode 0x080000#24 = .ok .clearInterrupt ∧
  assemble (.analogWrite 16#8 1#8) = 0x051001#24 ∧ decode 0x051001#24 = .error (.invalidPin 16#8)

/-- R107: every word is one legal command or raises exactly one of the three acceptance causes; 8244 words are legal. -/
def Obligations.DecodingIsTotalWith8244LegalWords : Prop :=
  (∀ c : CmdWord,
    (∃ i, decode c = .ok i ∧ i.wellFormed = true) ∨
    (∃ e, decode c = .error e ∧ (causeCode e = 2#3 ∨ causeCode e = 3#3 ∨ causeCode e = 4#3))) ∧
  ((Finset.range (2 ^ 24)).filter fun w => (decodeTableWord 24 w).isSome = true).card = 8244

/-! ## The step relation (10_state.md section 4) -/

/-- R32, R106: what the IDLE block does with the word {op, pin, arg} on its command port: the checks in their order, the
response of a word that fails one, and the start of a legal one. No bus request is presented before, nor after a
rejection; everything else is unchanged.
That the word's fields stay in `op`, `pin`, `arg` after a rejection is read from the order of R32 (log 18, DEDUCED); the
used-up word is R82 and log 8 (DEDUCED). -/
def Obligations.AcceptanceFollowsTheChecksInOrder : Prop :=
  ∀ (s : State) (op pin arg : Byte) (cs : List CmdWord),
    s.outside = [] → s.busy = false → s.commands = packWord op pin arg :: cs →
    let latched : State := { s with op := op, pin := pin, arg := arg, rspValid := false, commands := cs }
    let rejected : BitVec 3 → State := fun code =>
      { latched with status := code, result := false, failStep := 0#3, rspValid := true }
    busRequest s = none ∧ (∀ code, busRequest (rejected code) = none) ∧
    (¬(1 ≤ op.toNat ∧ op.toNat ≤ 8) → step s = .next (rejected 3#3)) ∧
    (op ∈ [0x02#8, 0x03#8, 0x04#8, 0x05#8] → 16 ≤ pin.toNat → step s = .next (rejected 2#3)) ∧
    (op ∈ [0x01#8, 0x06#8, 0x07#8, 0x08#8] → (pin ≠ 0#8 ∨ arg ≠ 0#8) → step s = .next (rejected 4#3)) ∧
    (op = 0x03#8 → pin.toNat < 16 → arg ≠ 0#8 → step s = .next (rejected 4#3)) ∧
    (op = 0x02#8 → pin.toNat < 16 → arg ≠ 0#8 → arg ≠ 1#8 → step s = .next (rejected 4#3)) ∧
    ((op ∈ [0x01#8, 0x06#8, 0x07#8, 0x08#8] ∧ pin = 0#8 ∧ arg = 0#8) ∨
      (op = 0x03#8 ∧ pin.toNat < 16 ∧ arg = 0#8) ∨
      (op = 0x02#8 ∧ pin.toNat < 16 ∧ (arg = 0#8 ∨ arg = 1#8)) ∨
      (op ∈ [0x04#8, 0x05#8] ∧ pin.toNat < 16) →
      step s = .next { latched with busy := true, step := 0#3 })

/-- Every well-formed command is accepted by the IDLE block: its fields are latched, the response is withdrawn, the
operation starts at transaction 0 and nothing else changes. The used-up word: log 8. -/
def Obligations.EveryWellFormedCommandIsAccepted : Prop :=
  ∀ (i : Instr) (s : State), i.wellFormed = true → s.busy = false →
    exec i s = .next { s with
      op := i.opcode, pin := i.pinOperand, arg := i.argOperand, rspValid := false, busy := true, step := 0#3,
      commands := s.commands.tail }

/-- A command whose pin is outside 0–15 is refused at acceptance with INVALID_PIN, and nothing else changes. The latched
`op`, `pin`, `arg` are read from the order of R32 (log 18, DEDUCED); the used-up word is log 8 (DEDUCED). -/
def Obligations.IllFormedCommandIsRejected : Prop :=
  ∀ (i : Instr) (s : State), i.wellFormed = false → s.busy = false →
    exec i s = .next { s with
      op := i.opcode, pin := i.pinOperand, arg := i.argOperand, rspValid := true, status := 2#3, result := false,
      failStep := 0#3, commands := s.commands.tail }

/-- A step runs the decoded command: IDLE, the one on the command port; BUSY, the latched one; also when the outside has
just yielded (then too a word that fails a check is rejected, and with no word the block waits), and for a word placed by
`withFetchWord`. The used-up word: log 8; the latches after a rejection: log 18.
That a step of the machine is one step of the sequencer, and the turn order, are the model's choice (log 7, 9, 10). -/
def Obligations.StepRunsTheDecodedCommand : Prop :=
  (∀ (s : State) (c : CmdWord) (cs : List CmdWord) (i : Instr),
    s.outside = [] → s.busy = false → s.commands = c :: cs → decode c = .ok i → step s = exec i s) ∧
  (∀ (s : State) (i : Instr),
    s.outside = [] → s.busy = true → decode (packWord s.op s.pin s.arg) = .ok i → step s = exec i s) ∧
  (∀ (s : State) (rest : List OutsideMove) (i : Instr),
    s.outside = .blockStep :: rest → s.busy = true → decode (packWord s.op s.pin s.arg) = .ok i →
    step s = exec i { s with outside := rest }) ∧
  (∀ (s : State) (rest : List OutsideMove) (c : CmdWord) (cs : List CmdWord),
    s.outside = .blockStep :: rest → s.busy = false → s.commands = c :: cs →
    (∀ i, decode c = .ok i → step s = exec i { s with outside := rest }) ∧
    (∀ e, decode c = .error e → step s = .next { s with
      outside := rest, commands := cs, op := opField c, pin := pinField c, arg := argField c, status := causeCode e,
      result := false, failStep := 0#3, rspValid := true })) ∧
  (∀ (s : State) (rest : List OutsideMove), s.outside = .blockStep :: rest → s.busy = false → s.commands = [] →
    step s = .next { s with outside := rest }) ∧
  (∀ (s : State) (nbits w : Nat) (i : Instr),
    decodeTableWord nbits w = some i → step (s.withFetchWord nbits w) = exec i (s.withFetchWord nbits w))

/-- After the outside yields, the block takes the step it would take if nothing were scheduled, and the later moves stay
scheduled: every statement about a step with `outside = []` holds of the yielded step too. The turn order is the model's
choice (log 7). -/
def Obligations.YieldedStepIsTheBlocksStep : Prop :=
  ∀ (s : State) (rest : List OutsideMove), s.outside = .blockStep :: rest →
    (∀ t, step { s with outside := [] } = .next t → step s = .next { t with outside := rest }) ∧
    (∀ f, step { s with outside := [] } = .fault f → step s = .fault f) ∧
    (∀ r, step { s with outside := [] } = .refused r → step s = .refused r)

/-- The IDLE block with nothing presented waits: the step changes nothing (R253, R234). -/
def Obligations.IdleBlockWaitsForACommand : Prop :=
  ∀ s : State, s.outside = [] → s.busy = false → s.commands = [] → step s = .next s ∧ s.cmdReady = true

/-- While BUSY the block accepts no word: `cmd_ready` is 0, and its step leaves the presented words and the latched
command as they are (R22, R37). -/
def Obligations.BusyBlockAcceptsNoCommand : Prop :=
  ∀ s t : State, s.outside = [] → s.busy = true → step s = .next t →
    s.cmdReady = false ∧ t.commands = s.commands ∧ t.op = s.op ∧ t.pin = s.pin ∧ t.arg = s.arg

/-- R33: the BUSY block presents the transaction of index `step`; unanswered, nothing changes; on success the latch
updates and `step + 1`; on failure `raise BusFail(step)`. The whole next state is given.
The chip's side of an answer is the model's reading (log 6, 11, 12). -/
def Obligations.BusyTransactionStep : Prop :=
  ∀ (s : State) (act : TxAction), s.outside = [] → currentAction s = some act →
    busRequest s = some (act.tx.request s.chipAddr) ∧
    (s.answers = [] → step s = .next s) ∧
    (∀ ans rest, s.answers = ans :: rest → ans.ok = true →
      step s = .next { s with
        answers := rest, chip := chipAfter act.tx ans s.chip, intPending := pendingAfter act ans s.intPending,
        rd := rdAfter act.tx ans s.rd, v := act.latchV.getD s.v, step := s.step + 1#3 }) ∧
    (∀ ans rest, s.answers = ans :: rest → ans.ok = false →
      step s = .next { s with
        answers := rest, chip := chipAfter act.tx ans s.chip, intPending := pendingAfter act ans s.intPending,
        status := 1#3, result := false, failStep := s.step, rspValid := true, busy := false })

/-- R34: at `step = N(op)` the command completes: status OK, `result` the pin's bit for digitalRead and 0 for every other
command, `fail_step` 0, the response presented, the block IDLE, and nothing else changed. -/
def Obligations.CompletionWritesTheResponse : Prop :=
  ∀ (s : State) (i : Instr), s.outside = [] → s.busy = true → decode (packWord s.op s.pin s.arg) = .ok i →
    s.step.toNat = transactionCount i →
    step s = .next { s with
      status := 0#3
      result := match i with
        | .digitalRead pin => readBit s.rd (pinIndex pin)
        | _ => false
      failStep := 0#3, rspValid := true, busy := false }

/-- R35: a failed transaction ends the operation: BUS_FAIL with its index, IDLE, the response presented, and no further
transaction of the operation is presented. -/
def Obligations.FailedTransactionAborts : Prop :=
  ∀ (s : State) (ans : BusAnswer) (rest : List BusAnswer), s.outside = [] → busRequest s ≠ none →
    s.answers = ans :: rest → ans.ok = false →
    ∃ t, step s = .next t ∧ t.status = 1#3 ∧ t.result = false ∧ t.failStep = s.step ∧ t.rspValid = true ∧
      t.busy = false ∧ busRequest t = none

/-- An unanswered transaction holds the block for ever (R263): no step changes anything. -/
def Obligations.UnansweredTransactionHoldsForEver : Prop :=
  ∀ (n : Nat) (s : State), s.outside = [] → busRequest s ≠ none → s.answers = [] →
    Sys2Proof.core.run n s = .next s

/-- R63, R85: every address the block presents is one of the 16 it may issue, never a phase 1 register and never an
unmapped one, and every request carries `chip_addr`. -/
def Obligations.OnlySixteenAddressesAreIssued : Prop :=
  ∀ (s : State) (r : BusRequest), busRequest s = some r →
    r.addr ∈ [0x00#8, 0x01#8, 0x02#8, 0x03#8, 0x06#8, 0x07#8, 0x0E#8, 0x0F#8,
      0x10#8, 0x11#8, 0x12#8, 0x13#8, 0x14#8, 0x15#8, 0x16#8, 0x17#8] ∧
    isMapped r.addr = true ∧ r.addr ≠ 0x0A#8 ∧ r.addr ≠ 0x0B#8 ∧
    (r = .read s.chipAddr r.addr ∨ ∃ v, r = .write s.chipAddr r.addr v)

/-! ## Every command, from acceptance to completion -/

/-- begin (R160): six writes with their addresses and data, in order, all answered with success; the final state whole.
The register changes that come with an answer (`side`) and which transactions touch the pending state are the model's
(log 6, 11, 12). -/
def Obligations.BeginRunsToCompletion : Prop :=
  ∀ (s : State) (a0 a1 a2 a3 a4 a5 : BusAnswer) (rest : List BusAnswer), s.busy = false →
    s.answers = a0 :: a1 :: a2 :: a3 :: a4 :: a5 :: rest → (∀ a ∈ [a0, a1, a2, a3, a4, a5], a.ok = true) →
    ∃ s1 s2 s3 s4 s5 s6 s7,
      exec .begin s = .next s1 ∧
      busRequest s1 = some (.write s.chipAddr 0x06#8 0x00#8) ∧ exec .begin s1 = .next s2 ∧
      busRequest s2 = some (.write s.chipAddr 0x07#8 0x00#8) ∧ exec .begin s2 = .next s3 ∧
      busRequest s3 = some (.write s.chipAddr 0x02#8 0xFF#8) ∧ exec .begin s3 = .next s4 ∧
      busRequest s4 = some (.write s.chipAddr 0x03#8 0xFF#8) ∧ exec .begin s4 = .next s5 ∧
      busRequest s5 = some (.write s.chipAddr 0x0F#8 Config.pBeginConfig) ∧ exec .begin s5 = .next s6 ∧
      busRequest s6 = some (.write s.chipAddr 0x0E#8 0xFF#8) ∧ exec .begin s6 = .next s7 ∧
      busRequest s7 = none ∧
      exec .begin s7 = .next { s with
        op := 0x01#8, pin := 0#8, arg := 0#8, step := 6#3, rspValid := true, status := 0#3, result := false,
        failStep := 0#3, commands := s.commands.tail, answers := rest
        chip := ((((((((((((s.chip.set 0x06#8 0x00#8).setAll a0.side).set 0x07#8 0x00#8).setAll a1.side).set
          0x02#8 0xFF#8).setAll a2.side).set 0x03#8 0xFF#8).setAll a3.side).set
          0x0F#8 Config.pBeginConfig).setAll a4.side).set 0x0E#8 0xFF#8).setAll a5.side) }

/-- pinMode (R170): a read and a write of the pin's port configuration register; the final state whole.
The register changes that come with an answer (`side`) and which transactions touch the pending state are the model's
(log 6, 11, 12). -/
def Obligations.PinModeRunsToCompletion : Prop :=
  ∀ (pin : Byte) (mode : PinMode) (s : State) (a0 a1 : BusAnswer) (rest : List BusAnswer),
    pin.toNat < 16 → s.busy = false → s.answers = a0 :: a1 :: rest → a0.ok = true → a1.ok = true →
    let reg : Byte := if pin.toNat < 8 then 0x06#8 else 0x07#8
    let data : Byte := writeBit a0.rdata (1#8 <<< (pin.toNat % 8)) (decide (mode = .input))
    ∃ s1 s2 s3,
      exec (.pinMode pin mode) s = .next s1 ∧
      busRequest s1 = some (.read s.chipAddr reg) ∧ exec (.pinMode pin mode) s1 = .next s2 ∧
      busRequest s2 = some (.write s.chipAddr reg data) ∧ exec (.pinMode pin mode) s2 = .next s3 ∧
      busRequest s3 = none ∧
      exec (.pinMode pin mode) s3 = .next { s with
        op := 0x02#8, pin := pin, arg := mode.toArg, step := 2#3, rd := a0.rdata, rspValid := true, status := 0#3,
        result := false, failStep := 0#3, commands := s.commands.tail, answers := rest, intPending := a0.pend
        chip := (((s.chip.setAll a0.side).set reg data).setAll a1.side) }

/-- digitalRead (R171): one read of the pin's input register; the result is the pin's bit; the pending state is a draw
(R203); the final state whole. The register changes that come with an answer (`side`) and which transactions touch the
pending state are the model's (log 6, 11, 12). -/
def Obligations.DigitalReadRunsToCompletion : Prop :=
  ∀ (pin : Byte) (s : State) (a0 : BusAnswer) (rest : List BusAnswer),
    pin.toNat < 16 → s.busy = false → s.answers = a0 :: rest → a0.ok = true →
    let reg : Byte := if pin.toNat < 8 then 0x00#8 else 0x01#8
    ∃ s1 s2,
      exec (.digitalRead pin) s = .next s1 ∧
      busRequest s1 = some (.read s.chipAddr reg) ∧ exec (.digitalRead pin) s1 = .next s2 ∧
      busRequest s2 = none ∧
      exec (.digitalRead pin) s2 = .next { s with
        op := 0x03#8, pin := pin, arg := 0#8, step := 1#3, rd := a0.rdata, rspValid := true, status := 0#3,
        result := a0.rdata.getLsbD (pin.toNat % 8), failStep := 0#3, commands := s.commands.tail, answers := rest
        chip := s.chip.setAll a0.side, intPending := a0.pend }

/-- analogWrite (R172): the read-modify-write of the phase-0 register, then of the intensity register, with the clamped
intensity (R130), the phase bit and nibble of R131 and the merge of R132; the final state whole.
The register changes that come with an answer (`side`) and which transactions touch the pending state are the model's
(log 6, 11, 12). -/
def Obligations.AnalogWriteRunsToCompletion : Prop :=
  ∀ (pin x : Byte) (s : State) (a0 a1 a2 a3 : BusAnswer) (rest : List BusAnswer),
    pin.toNat < 16 → s.busy = false → s.answers = a0 :: a1 :: a2 :: a3 :: rest →
    (∀ a ∈ [a0, a1, a2, a3], a.ok = true) →
    let reg : Byte := if pin.toNat < 8 then 0x02#8 else 0x03#8
    let ireg : Byte := BitVec.ofNat 8 (16 + pin.toNat / 2)
    let data : Byte := writeBit a0.rdata (1#8 <<< (pin.toNat % 8)) (decide (x ≠ 0#8))
    let w : Nibble := BitVec.ofNat 4 (if x = 0#8 then 15 else min x.toNat 15)
    let idata : Byte := nibbleMerge a2.rdata (pinIndex pin) w
    ∃ s1 s2 s3 s4 s5,
      exec (.analogWrite pin x) s = .next s1 ∧
      busRequest s1 = some (.read s.chipAddr reg) ∧ exec (.analogWrite pin x) s1 = .next s2 ∧
      busRequest s2 = some (.write s.chipAddr reg data) ∧ exec (.analogWrite pin x) s2 = .next s3 ∧
      busRequest s3 = some (.read s.chipAddr ireg) ∧ exec (.analogWrite pin x) s3 = .next s4 ∧
      busRequest s4 = some (.write s.chipAddr ireg idata) ∧ exec (.analogWrite pin x) s4 = .next s5 ∧
      busRequest s5 = none ∧
      exec (.analogWrite pin x) s5 = .next { s with
        op := 0x05#8, pin := pin, arg := x, step := 4#3, rd := a2.rdata, v := w, rspValid := true, status := 0#3,
        result := false, failStep := 0#3, commands := s.commands.tail, answers := rest, intPending := a2.pend
        chip := (((((s.chip.setAll a0.side).set reg data).setAll a1.side).setAll a2.side).set ireg idata).setAll
          a3.side }

/-- digitalWrite (R173): the transactions of analogWrite with 15 (any nonzero value) or 0; the final state whole.
The register changes that come with an answer (`side`) and which transactions touch the pending state are the model's
(log 6, 11, 12). -/
def Obligations.DigitalWriteRunsToCompletion : Prop :=
  ∀ (pin b : Byte) (s : State) (a0 a1 a2 a3 : BusAnswer) (rest : List BusAnswer),
    pin.toNat < 16 → s.busy = false → s.answers = a0 :: a1 :: a2 :: a3 :: rest →
    (∀ a ∈ [a0, a1, a2, a3], a.ok = true) →
    let reg : Byte := if pin.toNat < 8 then 0x02#8 else 0x03#8
    let ireg : Byte := BitVec.ofNat 8 (16 + pin.toNat / 2)
    let data : Byte := writeBit a0.rdata (1#8 <<< (pin.toNat % 8)) (decide (b ≠ 0#8))
    let idata : Byte := nibbleMerge a2.rdata (pinIndex pin) 15#4
    ∃ s1 s2 s3 s4 s5,
      exec (.digitalWrite pin b) s = .next s1 ∧
      busRequest s1 = some (.read s.chipAddr reg) ∧ exec (.digitalWrite pin b) s1 = .next s2 ∧
      busRequest s2 = some (.write s.chipAddr reg data) ∧ exec (.digitalWrite pin b) s2 = .next s3 ∧
      busRequest s3 = some (.read s.chipAddr ireg) ∧ exec (.digitalWrite pin b) s3 = .next s4 ∧
      busRequest s4 = some (.write s.chipAddr ireg idata) ∧ exec (.digitalWrite pin b) s4 = .next s5 ∧
      busRequest s5 = none ∧
      exec (.digitalWrite pin b) s5 = .next { s with
        op := 0x04#8, pin := pin, arg := b, step := 4#3, rd := a2.rdata, v := 15#4, rspValid := true, status := 0#3,
        result := false, failStep := 0#3, commands := s.commands.tail, answers := rest, intPending := a2.pend
        chip := (((((s.chip.setAll a0.side).set reg data).setAll a1.side).setAll a2.side).set ireg idata).setAll
          a3.side }

/-- enableInterrupt (R200): the read-modify-write that sets bit 3 of 0x0F, then the reads of 0x00 and 0x01, after which
the pending state is clear (R203); the final state whole.
The register changes that come with an answer (`side`) and which transactions touch the pending state are the model's
(log 6, 11, 12). -/
def Obligations.EnableInterruptRunsToCompletion : Prop :=
  ∀ (s : State) (a0 a1 a2 a3 : BusAnswer) (rest : List BusAnswer), s.busy = false →
    s.answers = a0 :: a1 :: a2 :: a3 :: rest → (∀ a ∈ [a0, a1, a2, a3], a.ok = true) →
    ∃ s1 s2 s3 s4 s5,
      exec .enableInterrupt s = .next s1 ∧
      busRequest s1 = some (.read s.chipAddr 0x0F#8) ∧ exec .enableInterrupt s1 = .next s2 ∧
      busRequest s2 = some (.write s.chipAddr 0x0F#8 (a0.rdata ||| 0x08#8)) ∧ exec .enableInterrupt s2 = .next s3 ∧
      busRequest s3 = some (.read s.chipAddr 0x00#8) ∧ exec .enableInterrupt s3 = .next s4 ∧
      busRequest s4 = some (.read s.chipAddr 0x01#8) ∧ exec .enableInterrupt s4 = .next s5 ∧
      busRequest s5 = none ∧
      exec .enableInterrupt s5 = .next { s with
        op := 0x06#8, pin := 0#8, arg := 0#8, step := 4#3, rd := a3.rdata, rspValid := true, status := 0#3,
        result := false, failStep := 0#3, commands := s.commands.tail, answers := rest, intPending := false
        chip := ((((s.chip.setAll a0.side).set 0x0F#8 (a0.rdata ||| 0x08#8)).setAll a1.side).setAll a2.side).setAll
          a3.side }

/-- disableInterrupt (R201): as enableInterrupt, with bit 3 cleared; the final state whole.
The register changes that come with an answer (`side`) and which transactions touch the pending state are the model's
(log 6, 11, 12). -/
def Obligations.DisableInterruptRunsToCompletion : Prop :=
  ∀ (s : State) (a0 a1 a2 a3 : BusAnswer) (rest : List BusAnswer), s.busy = false →
    s.answers = a0 :: a1 :: a2 :: a3 :: rest → (∀ a ∈ [a0, a1, a2, a3], a.ok = true) →
    ∃ s1 s2 s3 s4 s5,
      exec .disableInterrupt s = .next s1 ∧
      busRequest s1 = some (.read s.chipAddr 0x0F#8) ∧ exec .disableInterrupt s1 = .next s2 ∧
      busRequest s2 = some (.write s.chipAddr 0x0F#8 (a0.rdata &&& 0xF7#8)) ∧ exec .disableInterrupt s2 = .next s3 ∧
      busRequest s3 = some (.read s.chipAddr 0x00#8) ∧ exec .disableInterrupt s3 = .next s4 ∧
      busRequest s4 = some (.read s.chipAddr 0x01#8) ∧ exec .disableInterrupt s4 = .next s5 ∧
      busRequest s5 = none ∧
      exec .disableInterrupt s5 = .next { s with
        op := 0x07#8, pin := 0#8, arg := 0#8, step := 4#3, rd := a3.rdata, rspValid := true, status := 0#3,
        result := false, failStep := 0#3, commands := s.commands.tail, answers := rest, intPending := false
        chip := ((((s.chip.setAll a0.side).set 0x0F#8 (a0.rdata &&& 0xF7#8)).setAll a1.side).setAll a2.side).setAll
          a3.side }

/-- clearInterrupt (R202): reads of 0x00 and 0x01, nothing written, the pending state clear (R203); the final state
whole. The register changes that come with an answer (`side`) and which transactions touch the pending state are the model's
(log 6, 11, 12). -/
def Obligations.ClearInterruptRunsToCompletion : Prop :=
  ∀ (s : State) (a0 a1 : BusAnswer) (rest : List BusAnswer), s.busy = false → s.answers = a0 :: a1 :: rest →
    a0.ok = true → a1.ok = true →
    ∃ s1 s2 s3,
      exec .clearInterrupt s = .next s1 ∧
      busRequest s1 = some (.read s.chipAddr 0x00#8) ∧ exec .clearInterrupt s1 = .next s2 ∧
      busRequest s2 = some (.read s.chipAddr 0x01#8) ∧ exec .clearInterrupt s2 = .next s3 ∧
      busRequest s3 = none ∧
      exec .clearInterrupt s3 = .next { s with
        op := 0x08#8, pin := 0#8, arg := 0#8, step := 2#3, rd := a1.rdata, rspValid := true, status := 0#3,
        result := false, failStep := 0#3, commands := s.commands.tail, answers := rest, intPending := false
        chip := (s.chip.setAll a0.side).setAll a1.side }

/-- The frame of a BUSY step of any command: what it leaves unchanged. A register of the chip changes only if the
transaction stores to it (the address the meaning computes) or the environment's own answer changes it (R75).
Register changes that come with an answer: log 11 (DEDUCED). That the pending state changes only by a read, and a read of
0x0F only sets it: log 12 (DEDUCED). -/
def Obligations.FrameOfABusyStep : Prop :=
  ∀ (i : Instr) (s t : State), s.busy = true → exec i s = .next t →
    t.chipAddr = s.chipAddr ∧ t.op = s.op ∧ t.pin = s.pin ∧ t.arg = s.arg ∧ t.dpin = s.dpin ∧ t.dph = s.dph ∧
    t.commands = s.commands ∧ t.outside = s.outside ∧
    (t.rd ≠ s.rd → ∃ a, readRegister i s = some a) ∧
    (t.v ≠ s.v → s.step = 0#3 ∧ ((∃ p x, i = .analogWrite p x) ∨ ∃ p b, i = .digitalWrite p b)) ∧
    (t.busy = true → t.status = s.status ∧ t.result = s.result ∧ t.failStep = s.failStep ∧ t.rspValid = s.rspValid) ∧
    (t.intPending ≠ s.intPending → ∃ a, readRegister i s = some a ∧ (a = 0x0F#8 → t.intPending = true)) ∧
    (∀ r : Nat, (∀ a, storedRegister i s = some a → a.toNat ≠ r) → sideSpares s r →
      t.chip.read r = s.chip.read r)

/-! ## Counts, the whole-operation view, equivalence -/

/-- R262: N(op), its reads and its writes for every command whose transactions all succeed; none for a rejected word;
k + 1 for a command that ends in BUS_FAIL at k. -/
def Obligations.TransactionCountsOfEveryCommand : Prop :=
  (∀ (i : Instr) (chip : ChipAddr) (answers : List BusAnswer), i.wellFormed = true → 6 ≤ answers.length →
    (∀ a ∈ answers, a.ok = true) →
    let rs := (observeCommand (encode i) chip answers).requests
    let reads := (rs.filter BusRequest.isRead).length
    let counts : Nat × Nat := match i with
      | .begin => (0, 6)
      | .pinMode _ _ => (1, 1)
      | .digitalRead _ => (1, 0)
      | .analogWrite _ _ => (2, 2)
      | .digitalWrite _ _ => (2, 2)
      | .enableInterrupt => (3, 1)
      | .disableInterrupt => (3, 1)
      | .clearInterrupt => (2, 0)
    reads = counts.1 ∧ rs.length = counts.1 + counts.2) ∧
  (∀ (c : CmdWord) (e : Cause) (chip : ChipAddr) (answers : List BusAnswer), decode c = .error e →
    (observeCommand c chip answers).requests = []) ∧
  (∀ (c : CmdWord) (chip : ChipAddr) (answers : List BusAnswer) (r : Response),
    (observeCommand c chip answers).response = some r → r.status = 1#3 →
    (observeCommand c chip answers).requests.length = r.failStep.toNat + 1)

/-- R221: which statuses a command can end with. A legal command ends with OK or with BUS_FAIL at a k below the count the
rule gives, and each of these ends happens; a rejected word has the status of its cause. -/
def Obligations.StatusesEachCommandCanEndWith : Prop :=
  (∀ (i : Instr) (chip : ChipAddr), i.wellFormed = true →
    let failures : Nat := match i with
      | .begin => 6
      | .pinMode _ _ => 2
      | .digitalRead _ => 1
      | .digitalWrite _ _ => 4
      | .analogWrite _ _ => 4
      | .enableInterrupt => 4
      | .disableInterrupt => 4
      | .clearInterrupt => 2
    (∀ answers r, (observeCommand (encode i) chip answers).response = some r →
      r.status = 0#3 ∨ (r.status = 1#3 ∧ r.failStep.toNat < failures)) ∧
    (∃ answers r, (observeCommand (encode i) chip answers).response = some r ∧ r.status = 0#3) ∧
    (∀ k, k < failures → ∃ answers r, (observeCommand (encode i) chip answers).response = some r ∧ r.status = 1#3 ∧
      r.failStep.toNat = k)) ∧
  (∀ (op pin arg : Byte) (chip : ChipAddr) (answers : List BusAnswer) (r : Response),
    (observeCommand (packWord op pin arg) chip answers).response = some r →
    (r.status = 3#3 ↔ ¬(1 ≤ op.toNat ∧ op.toNat ≤ 8)) ∧
    (r.status = 2#3 ↔ op ∈ [0x02#8, 0x03#8, 0x04#8, 0x05#8] ∧ 16 ≤ pin.toNat) ∧
    (r.status = 4#3 ↔
      (op ∈ [0x01#8, 0x06#8, 0x07#8, 0x08#8] ∧ (pin ≠ 0#8 ∨ arg ≠ 0#8)) ∨
      (op = 0x02#8 ∧ pin.toNat < 16 ∧ arg ≠ 0#8 ∧ arg ≠ 1#8) ∨
      (op = 0x03#8 ∧ pin.toNat < 16 ∧ arg ≠ 0#8)))

/-- R36: from any IDLE state, running the step relation over one command gives exactly the transactions and the response
of the whole-operation function of the command word, `chip_addr` and the answers; an unanswered transaction leaves it
BUSY with no response.
The used-up word is R82 and log 8 (DEDUCED); that a waiting block has used up its answers is their place in State, log 6
(DESIGN CHOICE; R263). -/
def Obligations.StepsRealiseTheWholeOperationView : Prop :=
  ∀ (s : State) (c : CmdWord) (cs : List CmdWord), s.busy = false → s.outside = [] → s.commands = c :: cs →
    let o := observeCommand c s.chipAddr s.answers
    ∃ t, Sys2Proof.core.run o.steps s = .next t ∧ transcript o.steps s = o.requests ∧ responsePort t = o.response ∧
      t.commands = cs ∧ (o.response = none → t.busy = true ∧ t.answers = []) ∧ (o.response ≠ none → t.busy = false)

/-- Nothing but the command words, `chip_addr` and the answers reaches the bus or the response port (R31, R36, R179): two
IDLE states that agree on those run with the same transactions and responses, whatever their latches, old responses, chip
registers and pending states are. -/
def Obligations.NoStateOfAnEarlierOperationIsUsed : Prop :=
  ∀ (s s' : State), s.busy = false → s'.busy = false → s.outside = [] → s'.outside = [] → s.commands ≠ [] →
    s'.commands = s.commands → s'.chipAddr = s.chipAddr → s'.answers = s.answers →
    ∀ n : Nat, transcript n s' = transcript n s ∧
      ∃ t t', Sys2Proof.core.run (n + 1) s = .next t ∧ Sys2Proof.core.run (n + 1) s' = .next t' ∧
        responsePort t' = responsePort t

/-- R174: digitalWrite(pin, b) issues the transactions of analogWrite(pin, dwrite_map(b)) and ends with the same response
and the same chip, step by step, whatever the environment answers. That the chip, the
pending state and the rest of the answers agree too is the model's (log 6, 11, 12). -/
def Obligations.DigitalWriteIsAnalogWriteOf15Or0 : Prop :=
  ∀ (pin b : Byte) (s s' : State) (cs : List CmdWord), pin.toNat < 16 → s.busy = false → s.outside = [] →
    s.commands = packWord 0x04#8 pin b :: cs →
    s' = { s with commands := packWord 0x05#8 pin (if b = 0#8 then 0#8 else 15#8) :: cs } →
    ∀ n : Nat, transcript n s' = transcript n s ∧
      ∃ t t', Sys2Proof.core.run n s = .next t ∧ Sys2Proof.core.run n s' = .next t' ∧
        responsePort t' = responsePort t ∧ t'.chip = t.chip ∧ t'.intPending = t.intPending ∧ t'.answers = t.answers

/-! ## The decoder's laws (40_address_decode.md) -/

/-- R136: nibble isolation. -/
def Obligations.NibbleMergeKeepsTheOtherNibble : Prop :=
  ∀ (r : Byte) (p : PinIndex) (w : Nibble),
    (p.toNat % 2 = 0 → (nibbleMerge r p w).extractLsb' 4 4 = r.extractLsb' 4 4 ∧
      (nibbleMerge r p w).extractLsb' 0 4 = w) ∧
    (p.toNat % 2 = 1 → (nibbleMerge r p w).extractLsb' 0 4 = r.extractLsb' 0 4 ∧
      (nibbleMerge r p w).extractLsb' 4 4 = w)

/-- R137: `write_bit(r, mask(p), b)` has `b` at `bitpos(p)` and the other seven bits of `r`. -/
def Obligations.WriteBitChangesOneBit : Prop :=
  ∀ (r : Byte) (p : PinIndex) (b : Bool),
    (writeBit r (mask p) b).getLsbD (bitpos p).toNat = b ∧
    ∀ j, j ≠ (bitpos p).toNat → (writeBit r (mask p) b).getLsbD j = r.getLsbD j

/-- R138: no two pins share a bit or a nibble of a register, and every bit and nibble of those registers belongs to a
pin. -/
def Obligations.PinsPartitionTheRegisters : Prop :=
  (∀ p q : PinIndex,
    (intensityReg p = intensityReg q → nibbleHi p = nibbleHi q → p = q) ∧
    (configReg p = configReg q → bitpos p = bitpos q → p = q) ∧
    (inputReg p = inputReg q → bitpos p = bitpos q → p = q) ∧
    (∀ ph, phaseReg p ph = phaseReg q ph → bitpos p = bitpos q → p = q)) ∧
  (∀ (k : BitVec 3) (h : BitVec 1), ∃ p, intensityReg p = 0x10#8 + k.setWidth 8 ∧ nibbleHi p = h) ∧
  (∀ (g : BitVec 1) (b : BitVec 3),
    (∃ p, configReg p = 0x06#8 + g.setWidth 8 ∧ bitpos p = b) ∧
    (∃ p, inputReg p = 0x00#8 + g.setWidth 8 ∧ bitpos p = b) ∧
    (∃ p, phaseReg p 0#1 = 0x02#8 + g.setWidth 8 ∧ bitpos p = b) ∧
    (∃ p, phaseReg p 1#1 = 0x0A#8 + g.setWidth 8 ∧ bitpos p = b))

/-- R134, R135: the decode port gives, for every `dpin` and phase number, the row of the decoder table for
`q = dpin mod 16`, and is valid exactly for `dpin < 16`. -/
def Obligations.DecodePortGivesTheDecoderTable : Prop :=
  ∀ (dpin : Byte) (dph : BitVec 1),
    let q := dpin.toNat % 16
    let d := decodePort dpin dph
    (d.dvalid = true ↔ dpin.toNat < 16) ∧
    d.dgroup.toNat = q / 8 ∧ d.dbit.toNat = q % 8 ∧ d.dmask.toNat = 2 ^ (q % 8) ∧
    d.dcfg.toNat = 6 + q / 8 ∧ d.dinput.toNat = q / 8 ∧ d.dphase.toNat = (if dph = 0#1 then 2 else 10) + q / 8 ∧
    d.dint.toNat = 16 + q / 2 ∧ d.dhi.toNat = q % 2

/-- R130, R131: intensity 0 is phase bit 0 with nibble 15; 1–15 is phase bit 1 with the value; above 15 is as 15, never
off. -/
def Obligations.PhaseBitAndNibbleOfAnIntensity : Prop :=
  ∀ x : Byte,
    (clamp x).toNat = min x.toNat 15 ∧
    (x.toNat = 0 → phaseSelect (clamp x) = (false, 15#4)) ∧
    (1 ≤ x.toNat → x.toNat ≤ 15 → phaseSelect (clamp x) = (true, BitVec.ofNat 4 x.toNat)) ∧
    (16 ≤ x.toNat → phaseSelect (clamp x) = (true, 15#4))

/-! ## Failures, the chip, the pending state -/

/-- R84: a failed read aborts, returns no byte and leaves every register; whether it acknowledged is a draw. After a
failed write the register holds its prior or the written value, by the environment's choice. That a failed write leaves
every other register is log 11, and that a failed write leaves the pending state and a failed read of 0x0F can only set it
is log 12 (both DEDUCED); the draws stand in the answer (log 6). -/
def Obligations.FailedTransactionOnTheChip : Prop :=
  ∀ (s : State) (ans : BusAnswer) (rest : List BusAnswer), s.outside = [] → s.answers = ans :: rest →
    ans.ok = false →
    (∀ a, busRequest s = some (.read s.chipAddr a) →
      ∃ t, step s = .next t ∧ t.busy = false ∧ t.rd = s.rd ∧ t.chip = s.chip ∧
        t.intPending = if a = 0x0F#8 then s.intPending || ans.pend else ans.pend) ∧
    (∀ a v, busRequest s = some (.write s.chipAddr a v) →
      ∃ t, step s = .next t ∧ t.busy = false ∧ t.intPending = s.intPending ∧
        (ans.latched = false → t.chip = s.chip) ∧
        (ans.latched = true → ∀ r, t.chip.read r = if r = a.toNat then some v else s.chip.read r))

/-- R203: after both acknowledging reads of enableInterrupt, disableInterrupt (steps 2, 3) or clearInterrupt (steps 0, 1)
the pending state is clear; after the first alone, or when the second fails, it is a draw.
The draws stand in the answers (log 6). -/
def Obligations.TwoReadsAcknowledgeTheInterrupt : Prop :=
  ∀ (i : Instr) (s : State) (a b : BusAnswer) (rest : List BusAnswer),
    ((i = .enableInterrupt ∨ i = .disableInterrupt) ∧ s.step = 2#3) ∨ (i = .clearInterrupt ∧ s.step = 0#3) →
    s.busy = true → s.answers = a :: b :: rest → a.ok = true →
    ∃ s1 s2, exec i s = .next s1 ∧ exec i s1 = .next s2 ∧ s1.intPending = a.pend ∧
      s2.intPending = if b.ok = true then false else b.pend

/-- R40, R75, R203, R205: the block's step changes the pending state only by a read; the change is the environment's draw, or
the clearing by a successful read of 0x01; a read of 0x0F never clears it. Which transactions draw: log 12. -/
def Obligations.PendingStateChangesOnlyByReads : Prop :=
  ∀ s t : State, s.outside = [] → step s = .next t → t.intPending ≠ s.intPending →
    ∃ ans rest a, s.answers = ans :: rest ∧ busRequest s = some (.read s.chipAddr a) ∧
      (t.intPending = ans.pend ∨ (t.intPending = false ∧ a = 0x01#8 ∧ ans.ok = true)) ∧
      (a = 0x0F#8 → t.intPending = true)

/-- R41, R256: a read-modify-write window is open exactly between the read and the write of pinMode (step 1), analogWrite
and digitalWrite (steps 1 and 3), enableInterrupt and disableInterrupt (step 1), on the register of that pair.
The window as a function of the latches: log 22. -/
def Obligations.RmwWindowsOfEveryCommand : Prop :=
  ∀ (s : State) (i : Instr) (a : Byte), s.busy = true → decode (packWord s.op s.pin s.arg) = .ok i →
    (rmwWindow s = some a ↔
      match i with
      | .pinMode pin _ => s.step = 1#3 ∧ a = configReg (pinIndex pin)
      | .analogWrite pin _ =>
        (s.step = 1#3 ∧ a = phaseReg (pinIndex pin) 0#1) ∨ (s.step = 3#3 ∧ a = intensityReg (pinIndex pin))
      | .digitalWrite pin _ =>
        (s.step = 1#3 ∧ a = phaseReg (pinIndex pin) 0#1) ∨ (s.step = 3#3 ∧ a = intensityReg (pinIndex pin))
      | .enableInterrupt => s.step = 1#3 ∧ a = 0x0F#8
      | .disableInterrupt => s.step = 1#3 ∧ a = 0x0F#8
      | .begin => False
      | .digitalRead _ => False
      | .clearInterrupt => False)

/-- R41: a write by another master to the register inside the window is overwritten by the block's write, whose data
holds nothing of it; the window is then closed. The window as a function of the latches: log 22. -/
def Obligations.WriteInsideTheWindowIsLost : Prop :=
  ∀ (s : State) (a w : Byte) (ans : BusAnswer) (rest : List BusAnswer),
    s.outside = [.masterWrite a w] → rmwWindow s = some a → s.answers = ans :: rest → ans.ok = true →
    (∀ c ∈ ans.side, c.1 ≠ a) →
    ∃ d t, busRequest s = some (.write s.chipAddr a d) ∧ Sys2Proof.core.run 2 s = .next t ∧
      t.chip.read a.toNat = some d ∧ rmwWindow t = none

/-! ## Partial states -/

/-- R162: begin failing at transaction k: the writes before it hold, its own register holds its old or its new value, and
every other register is as before. For answers without register changes of their own (log 11). -/
def Obligations.FailedBeginLeavesAPartialState : Prop :=
  ∀ (s : State) (cs : List CmdWord) (oks rest : List BusAnswer) (bad : BusAnswer),
    s.busy = false → s.outside = [] → s.commands = 0x010000#24 :: cs → s.answers = oks ++ bad :: rest →
    oks.length < 6 → (∀ a ∈ oks, a.ok = true ∧ a.side = []) → bad.ok = false →
    ∃ t, Sys2Proof.core.run (oks.length + 2) s = .next t ∧
      responsePort t = some ⟨1#3, false, BitVec.ofNat 3 oks.length⟩ ∧
      (∀ j (hj : j < beginWrites.length), j < oks.length →
        t.chip.read (beginWrites[j].1.toNat) = some beginWrites[j].2) ∧
      (∀ h : oks.length < beginWrites.length,
        t.chip.read (beginWrites[oks.length].1.toNat) =
          if bad.latched = true then some beginWrites[oks.length].2
          else s.chip.read (beginWrites[oks.length].1.toNat)) ∧
      (∀ r, (∀ j (hj : j < beginWrites.length), j ≤ oks.length → beginWrites[j].1.toNat ≠ r) →
        t.chip.read r = s.chip.read r)

/-- R175: analogWrite failing at transaction k = 0..3: the phase-0 register and the intensity register as in the rule's
table, every other register unchanged, and BUS_FAIL at k reported.
For answers without register changes of their own (log 11). -/
def Obligations.FailedAnalogWriteLeavesAPartialState : Prop :=
  ∀ (pin x : Byte) (s : State) (cs : List CmdWord) (oks rest : List BusAnswer) (bad : BusAnswer),
    pin.toNat < 16 → s.busy = false → s.outside = [] → s.commands = packWord 0x05#8 pin x :: cs →
    s.answers = oks ++ bad :: rest → oks.length < 4 → (∀ a ∈ oks, a.ok = true ∧ a.side = []) → bad.ok = false →
    let p := pinIndex pin
    let phase := (phaseReg p 0#1).toNat
    let intensity := (intensityReg p).toNat
    ∃ t, Sys2Proof.core.run (oks.length + 2) s = .next t ∧
      responsePort t = some ⟨1#3, false, BitVec.ofNat 3 oks.length⟩ ∧
      (∀ r, r ≠ phase → r ≠ intensity → t.chip.read r = s.chip.read r) ∧
      (oks.length = 0 → t.chip = s.chip) ∧
      (oks.length ≤ 2 → t.chip.read intensity = s.chip.read intensity) ∧
      (∀ a0 more, oks = a0 :: more →
        let new := writeBit a0.rdata (mask p) (phaseSelect (clamp x)).1
        t.chip.read phase = if more = [] ∧ bad.latched = false then s.chip.read phase else some new) ∧
      (∀ a0 a1 a2, oks = [a0, a1, a2] →
        t.chip.read intensity =
          if bad.latched = true then some (nibbleMerge a2.rdata p (phaseSelect (clamp x)).2)
          else s.chip.read intensity)

/-- R205: enableInterrupt and disableInterrupt failing at transaction k = 0..3: register 0x0F and the pending state as in
the rule's table, every other register unchanged. "Not acknowledged" is read as: not cleared, perhaps set by the draw that
comes with the read of 0x0F (log 12, DEDUCED); the draws stand in the answers (log 6). For answers without register changes
of their own (log 11). -/
def Obligations.FailedInterruptControlLeavesAPartialState : Prop :=
  ∀ (b : Bool) (s : State) (cs : List CmdWord) (oks rest : List BusAnswer) (bad : BusAnswer),
    s.busy = false → s.outside = [] → s.commands = (if b then 0x060000#24 else 0x070000#24) :: cs →
    s.answers = oks ++ bad :: rest → oks.length < 4 → (∀ a ∈ oks, a.ok = true ∧ a.side = []) → bad.ok = false →
    ∃ t, Sys2Proof.core.run (oks.length + 2) s = .next t ∧
      responsePort t = some ⟨1#3, false, BitVec.ofNat 3 oks.length⟩ ∧
      (∀ r, r ≠ 0x0F → t.chip.read r = s.chip.read r) ∧
      (oks.length = 0 → t.chip = s.chip) ∧
      (∀ a0 more, oks = a0 :: more →
        t.chip.read 0x0F = if more = [] ∧ bad.latched = false then s.chip.read 0x0F
          else some (writeBit a0.rdata 0x08#8 b)) ∧
      (oks.length = 0 → t.intPending = (s.intPending || bad.pend)) ∧
      (∀ a0, oks = [a0] → t.intPending = (s.intPending || a0.pend)) ∧
      (2 ≤ oks.length → t.intPending = bad.pend)

/-! ## The reference environment (R80) -/

/-- R161: in the reference environment a successful begin leaves the six registers at their values and every other
register as it was. -/
def Obligations.BeginPostState : Prop :=
  ∀ (e : RefEnv) (s : State), s.busy = false → s.outside = [] → s.commands = [0x010000#24] → noFaults e 6 →
    ∃ e' t, refRun 8 e s = (e', .next t) ∧ responsePort t = some ⟨0#3, false, 0#3⟩ ∧
      t.chip.read 0x06 = some 0x00#8 ∧ t.chip.read 0x07 = some 0x00#8 ∧ t.chip.read 0x02 = some 0xFF#8 ∧
      t.chip.read 0x03 = some 0xFF#8 ∧ t.chip.read 0x0F = some Config.pBeginConfig ∧
      t.chip.read 0x0E = some 0xFF#8 ∧
      ∀ r, r ∉ [0x06, 0x07, 0x02, 0x03, 0x0F, 0x0E] → t.chip.read r = s.chip.read r

/-- R178: in the reference environment, after a successful analogWrite(pin, x), the pin's phase bit and nibble encode
`clamp(x)`, and the other phase bits, the paired nibble and every other register are unchanged. The other
registers: R80.4; the reference environment's silence otherwise: log 24. -/
def Obligations.AnalogWritePostState : Prop :=
  ∀ (pin x : Byte) (e : RefEnv) (s : State), pin.toNat < 16 → s.busy = false → s.outside = [] →
    s.commands = [packWord 0x05#8 pin x] → noFaults e 4 →
    let phase := phaseReg (pinIndex pin) 0#1
    let intensity := intensityReg (pinIndex pin)
    ∃ e' t ph nib, refRun 6 e s = (e', .next t) ∧ responsePort t = some ⟨0#3, false, 0#3⟩ ∧
      t.chip.read phase.toNat = some ph ∧ t.chip.read intensity.toNat = some nib ∧
      (x = 0#8 → ph.getLsbD (pin.toNat % 8) = false ∧ nib.extractLsb' (4 * (pin.toNat % 2)) 4 = 15#4) ∧
      (x ≠ 0#8 → ph.getLsbD (pin.toNat % 8) = true ∧
        (nib.extractLsb' (4 * (pin.toNat % 2)) 4).toNat = min x.toNat 15) ∧
      (∀ j, j ≠ pin.toNat % 8 → ph.getLsbD j = (refReadByte e s.chip phase).getLsbD j) ∧
      nib.extractLsb' (4 * (1 - pin.toNat % 2)) 4 =
        (refReadByte e s.chip intensity).extractLsb' (4 * (1 - pin.toNat % 2)) 4 ∧
      ∀ r, r ≠ phase.toNat → r ≠ intensity.toNat → t.chip.read r = s.chip.read r

/-- R204: in the reference environment, after a successful enableInterrupt (disableInterrupt) bit 3 of 0x0F is 1 (0) and
the other seven bits are as before the command. The other registers: R80.4; the pending state: R203;
the reference environment's silence otherwise: log 24. -/
def Obligations.InterruptControlChangesOnlyBit3 : Prop :=
  ∀ (b : Bool) (e : RefEnv) (s : State), s.busy = false → s.outside = [] →
    s.commands = [if b then 0x060000#24 else 0x070000#24] → noFaults e 4 →
    ∃ e' t d, refRun 6 e s = (e', .next t) ∧ responsePort t = some ⟨0#3, false, 0#3⟩ ∧
      t.chip.read 0x0F = some d ∧ d.getLsbD 3 = b ∧ t.intPending = false ∧
      (∀ j, j ≠ 3 → d.getLsbD j = (refReadByte e s.chip 0x0F#8).getLsbD j) ∧
      ∀ r, r ≠ 0x0F → t.chip.read r = s.chip.read r

/-- R170, R137 in the reference environment: a successful pinMode makes the pin's bit of its group's port configuration
register the mode, keeps the other seven bits, and leaves every other register (C1: the group comes from the pin).
The other registers: R80.4; the reference environment's silence otherwise: log 24. The pending state, a draw after the
read, is not spoken of (log 12, log 19). -/
def Obligations.PinModeChangesOnlyThePinsBit : Prop :=
  ∀ (pin : Byte) (mode : PinMode) (e : RefEnv) (s : State), pin.toNat < 16 → s.busy = false → s.outside = [] →
    s.commands = [packWord 0x02#8 pin mode.toArg] → noFaults e 2 →
    let reg : Byte := if pin.toNat < 8 then 0x06#8 else 0x07#8
    ∃ e' t d, refRun 4 e s = (e', .next t) ∧ responsePort t = some ⟨0#3, false, 0#3⟩ ∧
      t.chip.read reg.toNat = some d ∧ d.getLsbD (pin.toNat % 8) = decide (mode = .input) ∧
      (∀ j, j ≠ pin.toNat % 8 → d.getLsbD j = (refReadByte e s.chip reg).getLsbD j) ∧
      ∀ r, r ≠ reg.toNat → t.chip.read r = s.chip.read r

/-! ## Reset, the outside, whole-machine rules -/

/-- R250: the values the spec gives for reset, in the reset state and after any assertion of reset. -/
def Obligations.ResetGivesTheSpecValues : Prop :=
  (State.reset.chipAddr = Config.pChipAddr ∧ State.reset.busy = false ∧ State.reset.rspValid = false ∧
    State.reset.status = 0#3 ∧ State.reset.result = false ∧ State.reset.failStep = 0#3) ∧
  (∀ (s : State) (latched pend : Bool) (rest : List OutsideMove), s.outside = .reset latched pend :: rest →
    ∃ t, step s = .next t ∧ t.chipAddr = Config.pChipAddr ∧ t.busy = false ∧ t.rspValid = false ∧ t.status = 0#3 ∧
      t.result = false ∧ t.failStep = 0#3)

/-- R251: a reset while BUSY abandons the operation: completed transactions stand, the one in flight ends as a failed one
does, no response is produced, and no further transaction is presented. That an abandoned write touches no other register
is log 11, and that it leaves the pending state and an abandoned read of 0x0F can only set it is log 12 (both DEDUCED); that
the draws come with the reset move is log 17 (DESIGN CHOICE). -/
def Obligations.ResetAbandonsTheOperation : Prop :=
  ∀ (s : State) (latched pend : Bool) (rest : List OutsideMove),
    s.outside = .reset latched pend :: rest → s.busy = true →
    ∃ t, step s = .next t ∧ t.busy = false ∧ t.rspValid = false ∧ busRequest t = none ∧
      (∀ a, busRequest s = some (.read s.chipAddr a) → t.chip = s.chip ∧
        t.intPending = if a = 0x0F#8 then s.intPending || pend else pend) ∧
      (∀ a v, busRequest s = some (.write s.chipAddr a v) → t.intPending = s.intPending ∧
        ∀ r, t.chip.read r = if latched = true ∧ r = a.toNat then some v else s.chip.read r) ∧
      (busRequest s = none → t.chip = s.chip ∧ t.intPending = s.intPending)

/-- A move of the outside other than a reset leaves every register of the block alone (R20, R37).
The moves are the model's choice (log 7). -/
def Obligations.OutsideMovesLeaveTheBlockAlone : Prop :=
  ∀ (s : State) (m : OutsideMove) (rest : List OutsideMove), s.outside = m :: rest → m ≠ .blockStep →
    (∀ latched pend, m ≠ .reset latched pend) →
    ∃ t, step s = .next t ∧ t.outside = rest ∧ t.chipAddr = s.chipAddr ∧ t.busy = s.busy ∧ t.op = s.op ∧
      t.pin = s.pin ∧ t.arg = s.arg ∧ t.step = s.step ∧ t.rd = s.rd ∧ t.v = s.v ∧ t.rspValid = s.rspValid ∧
      t.status = s.status ∧ t.result = s.result ∧ t.failStep = s.failStep ∧ busRequest t = busRequest s

/-- R28: the response fields are written only when a command ends, at completion, abort or rejection; then the response
is presented and the block is IDLE. -/
def Obligations.ResponseIsWrittenOnlyWhenACommandEnds : Prop :=
  ∀ s t : State, s.outside = [] → step s = .next t →
    t.status ≠ s.status ∨ t.result ≠ s.result ∨ t.failStep ≠ s.failStep ∨ (t.rspValid = true ∧ s.rspValid = false) →
    t.rspValid = true ∧ t.busy = false ∧
      (s.busy = true ∨ ∃ c cs e, s.commands = c :: cs ∧ decode c = .error e)

/-- R29: no command writes `chip_addr`; only an assertion of reset does, with `P_CHIP_ADDR`. -/
def Obligations.NoCommandWritesTheChipAddress : Prop :=
  ∀ s t : State, step s = .next t →
    t.chipAddr = s.chipAddr ∨
      ∃ latched pend rest, s.outside = .reset latched pend :: rest ∧ t.chipAddr = Config.pChipAddr

/-- R27: in states that meet the invariant, `step` of the BUSY block never exceeds 6, and one step of the block keeps it
or advances it by one without wrapping. -/
def Obligations.StepCounterNeverWraps : Prop :=
  ∀ s t : State, MachineInv s → s.outside = [] → s.busy = true → step s = .next t →
    s.step.toNat ≤ 6 ∧ (t.step = s.step ∨ t.step.toNat = s.step.toNat + 1)

/-! ## The invariant -/

/-- The reset state meets the invariant. -/
def Obligations.ResetMeetsTheInvariant : Prop := MachineInv State.reset

/-- R39, R61, R252: at the start, and in every state that meets the invariant, each of the 18 mapped registers holds a byte
and no other address does; at the start the byte is the free value (log 4), so nothing is known of it. -/
def Obligations.RegisterFileHoldsEighteenBytes : Prop :=
  (∀ a : Byte, isMapped a = true → State.reset.chip.read a.toNat = some (Config.chipAtStart a.toNat)) ∧
  (∀ (s : State) (r : Nat), MachineInv s →
    ((∃ v, s.chip.read r = some v) ↔
      r ∈ [0x00, 0x01, 0x02, 0x03, 0x06, 0x07, 0x0A, 0x0B, 0x0E, 0x0F, 0x10, 0x11, 0x12, 0x13, 0x14, 0x15, 0x16, 0x17]))

/-- Every step keeps the invariant: the chip's 18 registers in canonical form, the latched command legal, `step`
within N(op), `v` the effective intensity, no response while BUSY, the response fields in range. -/
def Obligations.EveryStepKeepsTheInvariant : Prop :=
  ∀ s t : State, MachineInv s → step s = .next t → MachineInv t

/-- From a state that meets the invariant no step stops the machine: neither a fault nor a refusal, so no step passes
N(op), meets an illegal latched command or touches an unmapped register. -/
def Obligations.NoStepStopsTheMachine : Prop := ∀ s : State, MachineInv s → ∃ t, step s = .next t

/-- Every run from a state that meets the invariant is safe, and ends in such a state. -/
def Obligations.EveryRunIsSafe : Prop :=
  ∀ (n : Nat) (s : State), MachineInv s → ∃ t, Sys2Proof.core.run n s = .next t ∧ MachineInv t
end

