-- ==== Sys2Proof/Laws/Encoding.lean ====
section
/-! SUPPORT. The fields of a packed word, and a word from its fields. -/

namespace Sys2Proof

theorem packWord_toNat (op pin arg : Byte) :
    (packWord op pin arg).toNat = op.toNat * 65536 + pin.toNat * 256 + arg.toNat := by
  have h1 := pin.isLt
  have h2 := arg.isLt
  unfold packWord
  rw [BitVec.toNat_append, BitVec.toNat_append, Nat.shiftLeft_eq, Nat.shiftLeft_eq]
  rw [← Nat.shiftLeft_eq, ← Nat.shiftLeft_eq, ← Nat.shiftLeft_add_eq_or_of_lt (by omega),
    ← Nat.shiftLeft_add_eq_or_of_lt (by omega)]
  simp only [Nat.shiftLeft_eq]
  omega

@[simp] theorem opField_packWord (op pin arg : Byte) : opField (packWord op pin arg) = op := by
  have h0 := op.isLt
  have h1 := pin.isLt
  have h2 := arg.isLt
  apply BitVec.eq_of_toNat_eq
  unfold opField
  rw [BitVec.extractLsb'_toNat, packWord_toNat, Nat.shiftRight_eq_div_pow]
  omega

@[simp] theorem pinField_packWord (op pin arg : Byte) : pinField (packWord op pin arg) = pin := by
  have h0 := op.isLt
  have h1 := pin.isLt
  have h2 := arg.isLt
  apply BitVec.eq_of_toNat_eq
  unfold pinField
  rw [BitVec.extractLsb'_toNat, packWord_toNat, Nat.shiftRight_eq_div_pow]
  omega

@[simp] theorem argField_packWord (op pin arg : Byte) : argField (packWord op pin arg) = arg := by
  have h0 := op.isLt
  have h1 := pin.isLt
  have h2 := arg.isLt
  apply BitVec.eq_of_toNat_eq
  unfold argField
  rw [BitVec.extractLsb'_toNat, packWord_toNat, Nat.shiftRight_eq_div_pow]
  omega

/-- A word is its three fields. -/
@[simp] theorem packWord_fields (c : CmdWord) : packWord (opField c) (pinField c) (argField c) = c := by
  have h := c.isLt
  apply BitVec.eq_of_toNat_eq
  rw [packWord_toNat]
  unfold opField pinField argField
  simp only [BitVec.extractLsb'_toNat, Nat.shiftRight_eq_div_pow]
  omega

end Sys2Proof
end

