-- ==== Sys2Proof/Laws/Memory.lean ====
section
/-! SUPPORT. The chip's registers: what a read after a write gives, and that every memory operation keeps the canonical
form. -/

namespace Sys2Proof.Machine

theorem Memory.read_write (m : Memory) (a : Nat) (v : Byte) (r : Nat) :
    (m.write a v).read r = if r = a then some v else m.read r := by
  induction m with
  | nil => simp [Memory.write, Memory.read]
  | cons c m ih =>
    obtain ⟨b, w⟩ := c
    simp only [Memory.write]
    split_ifs <;> simp_all [Memory.read]

/-- A register reads as what was last written to it. -/
@[simp] theorem Memory.read_write_same (m : Memory) (a : Nat) (v : Byte) : (m.write a v).read a = some v := by
  simp [Memory.read_write]

/-- A write leaves every other register alone. -/
theorem Memory.read_write_other (m : Memory) {a r : Nat} (v : Byte) (h : r ≠ a) :
    (m.write a v).read r = m.read r := by
  simp [Memory.read_write, h]

theorem Memory.read_set (m : Memory) (a v : Byte) (r : Nat) :
    (m.set a v).read r = if isMapped a = true ∧ r = a.toNat then some v else m.read r := by
  unfold Memory.set
  split_ifs with h1 h2 h3 <;> simp_all [Memory.read_write]

/-- Registers that a list of changes does not name are left alone. -/
theorem Memory.read_setAll_other (m : Memory) (cs : List (Byte × Byte)) (r : Nat)
    (h : ∀ c ∈ cs, c.1.toNat ≠ r) : (m.setAll cs).read r = m.read r := by
  induction cs generalizing m with
  | nil => rfl
  | cons c cs ih =>
    obtain ⟨a, v⟩ := c
    have ha : a.toNat ≠ r := h (a, v) (by simp)
    simp only [Memory.setAll]
    rw [ih _ fun c hc => h c (by simp [hc]), Memory.read_set]
    simp [Ne.symm ha]

/-- The addresses that a write leaves listed depend on the addresses alone. -/
def insertAddress : List Nat → Nat → List Nat
  | [], a => [a]
  | b :: l, a => if a < b then a :: b :: l else if a = b then a :: l else b :: insertAddress l a

theorem Memory.addresses_write (m : Memory) (a : Nat) (v : Byte) :
    (m.write a v).map Prod.fst = insertAddress (m.map Prod.fst) a := by
  induction m with
  | nil => rfl
  | cons c m ih =>
    simp only [Memory.write, List.map_cons, insertAddress]
    split_ifs <;> simp [ih]

/-- A mapped address is in its place in the canonical list already. -/
theorem insertAddress_mapped : ∀ a : Byte, isMapped a = true →
    insertAddress (mappedAddresses.map BitVec.toNat) a.toNat = mappedAddresses.map BitVec.toNat := by decide

theorem Memory.wf_iff (m : Memory) : m.wf = true ↔ m.map Prod.fst = mappedAddresses.map BitVec.toNat := by
  simp [Memory.wf]

/-- A register reads as a value exactly where its address is listed. -/
theorem Memory.read_isSome (m : Memory) (a : Nat) : (m.read a).isSome = true ↔ a ∈ m.map Prod.fst := by
  induction m with
  | nil => simp [Memory.read]
  | cons c m ih =>
    simp only [Memory.read, List.map_cons, List.mem_cons]
    split_ifs with h
    · simp [h]
    · rw [ih]
      simp [h]

theorem Memory.wf_set {m : Memory} (a v : Byte) (hm : m.wf = true) : (m.set a v).wf = true := by
  unfold Memory.set
  split_ifs with h
  · rw [Memory.wf_iff] at *
    rw [Memory.addresses_write, hm, insertAddress_mapped a h]
  · exact hm

theorem Memory.wf_setAll {m : Memory} (cs : List (Byte × Byte)) (hm : m.wf = true) : (m.setAll cs).wf = true := by
  induction cs generalizing m with
  | nil => exact hm
  | cons c cs ih => exact ih (Memory.wf_set c.1 c.2 hm)

/-- The chip's side of a transaction keeps the canonical form. -/
theorem chipAfter_wf {m : Memory} (t : Transaction) (ans : BusAnswer) (hm : m.wf = true) :
    (chipAfter t ans m).wf = true := by
  unfold chipAfter
  split
  · split
    · exact Memory.wf_setAll _ hm
    · exact hm
  · split_ifs
    · exact Memory.wf_setAll _ (Memory.wf_set _ _ hm)
    · exact Memory.wf_set _ _ hm
    · exact hm

/-- The reset state's memory is in canonical form. -/
theorem reset_chip_wf : State.reset.chip.wf = true := rfl

end Sys2Proof.Machine
end

