-- ==== Sys2Proof/Laws/State.lean ====
section
/-! SUPPORT. One lemma per field per named update of State, each true by rfl. -/

namespace Sys2Proof.Machine

variable (s : State)

/-! ## answered -/

@[simp] theorem answered_chipAddr (act : TxAction) (ans : BusAnswer) (rest : List BusAnswer) : (answered act ans rest s).chipAddr = s.chipAddr := rfl
@[simp] theorem answered_busy (act : TxAction) (ans : BusAnswer) (rest : List BusAnswer) : (answered act ans rest s).busy = s.busy := rfl
@[simp] theorem answered_op (act : TxAction) (ans : BusAnswer) (rest : List BusAnswer) : (answered act ans rest s).op = s.op := rfl
@[simp] theorem answered_pin (act : TxAction) (ans : BusAnswer) (rest : List BusAnswer) : (answered act ans rest s).pin = s.pin := rfl
@[simp] theorem answered_arg (act : TxAction) (ans : BusAnswer) (rest : List BusAnswer) : (answered act ans rest s).arg = s.arg := rfl
@[simp] theorem answered_step (act : TxAction) (ans : BusAnswer) (rest : List BusAnswer) : (answered act ans rest s).step = s.step := rfl
@[simp] theorem answered_rd (act : TxAction) (ans : BusAnswer) (rest : List BusAnswer) : (answered act ans rest s).rd = s.rd := rfl
@[simp] theorem answered_v (act : TxAction) (ans : BusAnswer) (rest : List BusAnswer) : (answered act ans rest s).v = s.v := rfl
@[simp] theorem answered_rspValid (act : TxAction) (ans : BusAnswer) (rest : List BusAnswer) : (answered act ans rest s).rspValid = s.rspValid := rfl
@[simp] theorem answered_status (act : TxAction) (ans : BusAnswer) (rest : List BusAnswer) : (answered act ans rest s).status = s.status := rfl
@[simp] theorem answered_result (act : TxAction) (ans : BusAnswer) (rest : List BusAnswer) : (answered act ans rest s).result = s.result := rfl
@[simp] theorem answered_failStep (act : TxAction) (ans : BusAnswer) (rest : List BusAnswer) : (answered act ans rest s).failStep = s.failStep := rfl
@[simp] theorem answered_chip (act : TxAction) (ans : BusAnswer) (rest : List BusAnswer) : (answered act ans rest s).chip = chipAfter act.tx ans s.chip := rfl
@[simp] theorem answered_intPending (act : TxAction) (ans : BusAnswer) (rest : List BusAnswer) : (answered act ans rest s).intPending = pendingAfter act ans s.intPending := rfl
@[simp] theorem answered_dpin (act : TxAction) (ans : BusAnswer) (rest : List BusAnswer) : (answered act ans rest s).dpin = s.dpin := rfl
@[simp] theorem answered_dph (act : TxAction) (ans : BusAnswer) (rest : List BusAnswer) : (answered act ans rest s).dph = s.dph := rfl
@[simp] theorem answered_commands (act : TxAction) (ans : BusAnswer) (rest : List BusAnswer) : (answered act ans rest s).commands = s.commands := rfl
@[simp] theorem answered_answers (act : TxAction) (ans : BusAnswer) (rest : List BusAnswer) : (answered act ans rest s).answers = rest := rfl
@[simp] theorem answered_outside (act : TxAction) (ans : BusAnswer) (rest : List BusAnswer) : (answered act ans rest s).outside = s.outside := rfl

/-! ## advance -/

@[simp] theorem advance_chipAddr (act : TxAction) (ans : BusAnswer) : (advance act ans s).chipAddr = s.chipAddr := rfl
@[simp] theorem advance_busy (act : TxAction) (ans : BusAnswer) : (advance act ans s).busy = s.busy := rfl
@[simp] theorem advance_op (act : TxAction) (ans : BusAnswer) : (advance act ans s).op = s.op := rfl
@[simp] theorem advance_pin (act : TxAction) (ans : BusAnswer) : (advance act ans s).pin = s.pin := rfl
@[simp] theorem advance_arg (act : TxAction) (ans : BusAnswer) : (advance act ans s).arg = s.arg := rfl
@[simp] theorem advance_step (act : TxAction) (ans : BusAnswer) : (advance act ans s).step = s.step + 1#3 := rfl
@[simp] theorem advance_rd (act : TxAction) (ans : BusAnswer) : (advance act ans s).rd = rdAfter act.tx ans s.rd := rfl
@[simp] theorem advance_v (act : TxAction) (ans : BusAnswer) : (advance act ans s).v = act.latchV.getD s.v := rfl
@[simp] theorem advance_rspValid (act : TxAction) (ans : BusAnswer) : (advance act ans s).rspValid = s.rspValid := rfl
@[simp] theorem advance_status (act : TxAction) (ans : BusAnswer) : (advance act ans s).status = s.status := rfl
@[simp] theorem advance_result (act : TxAction) (ans : BusAnswer) : (advance act ans s).result = s.result := rfl
@[simp] theorem advance_failStep (act : TxAction) (ans : BusAnswer) : (advance act ans s).failStep = s.failStep := rfl
@[simp] theorem advance_chip (act : TxAction) (ans : BusAnswer) : (advance act ans s).chip = s.chip := rfl
@[simp] theorem advance_intPending (act : TxAction) (ans : BusAnswer) : (advance act ans s).intPending = s.intPending := rfl
@[simp] theorem advance_dpin (act : TxAction) (ans : BusAnswer) : (advance act ans s).dpin = s.dpin := rfl
@[simp] theorem advance_dph (act : TxAction) (ans : BusAnswer) : (advance act ans s).dph = s.dph := rfl
@[simp] theorem advance_commands (act : TxAction) (ans : BusAnswer) : (advance act ans s).commands = s.commands := rfl
@[simp] theorem advance_answers (act : TxAction) (ans : BusAnswer) : (advance act ans s).answers = s.answers := rfl
@[simp] theorem advance_outside (act : TxAction) (ans : BusAnswer) : (advance act ans s).outside = s.outside := rfl

/-! ## raise -/

@[simp] theorem raise_chipAddr (e : Cause) : (raise e s).chipAddr = s.chipAddr := rfl
@[simp] theorem raise_busy (e : Cause) : (raise e s).busy = false := rfl
@[simp] theorem raise_op (e : Cause) : (raise e s).op = s.op := rfl
@[simp] theorem raise_pin (e : Cause) : (raise e s).pin = s.pin := rfl
@[simp] theorem raise_arg (e : Cause) : (raise e s).arg = s.arg := rfl
@[simp] theorem raise_step (e : Cause) : (raise e s).step = s.step := rfl
@[simp] theorem raise_rd (e : Cause) : (raise e s).rd = s.rd := rfl
@[simp] theorem raise_v (e : Cause) : (raise e s).v = s.v := rfl
@[simp] theorem raise_rspValid (e : Cause) : (raise e s).rspValid = true := rfl
@[simp] theorem raise_status (e : Cause) : (raise e s).status = causeCode e := rfl
@[simp] theorem raise_result (e : Cause) : (raise e s).result = false := rfl
@[simp] theorem raise_failStep (e : Cause) : (raise e s).failStep = causeFailStep e := rfl
@[simp] theorem raise_chip (e : Cause) : (raise e s).chip = s.chip := rfl
@[simp] theorem raise_intPending (e : Cause) : (raise e s).intPending = s.intPending := rfl
@[simp] theorem raise_dpin (e : Cause) : (raise e s).dpin = s.dpin := rfl
@[simp] theorem raise_dph (e : Cause) : (raise e s).dph = s.dph := rfl
@[simp] theorem raise_commands (e : Cause) : (raise e s).commands = s.commands := rfl
@[simp] theorem raise_answers (e : Cause) : (raise e s).answers = s.answers := rfl
@[simp] theorem raise_outside (e : Cause) : (raise e s).outside = s.outside := rfl

/-! ## latchCommand -/

@[simp] theorem latchCommand_chipAddr (c : CmdWord) : (latchCommand c s).chipAddr = s.chipAddr := rfl
@[simp] theorem latchCommand_busy (c : CmdWord) : (latchCommand c s).busy = s.busy := rfl
@[simp] theorem latchCommand_op (c : CmdWord) : (latchCommand c s).op = opField c := rfl
@[simp] theorem latchCommand_pin (c : CmdWord) : (latchCommand c s).pin = pinField c := rfl
@[simp] theorem latchCommand_arg (c : CmdWord) : (latchCommand c s).arg = argField c := rfl
@[simp] theorem latchCommand_step (c : CmdWord) : (latchCommand c s).step = s.step := rfl
@[simp] theorem latchCommand_rd (c : CmdWord) : (latchCommand c s).rd = s.rd := rfl
@[simp] theorem latchCommand_v (c : CmdWord) : (latchCommand c s).v = s.v := rfl
@[simp] theorem latchCommand_rspValid (c : CmdWord) : (latchCommand c s).rspValid = false := rfl
@[simp] theorem latchCommand_status (c : CmdWord) : (latchCommand c s).status = s.status := rfl
@[simp] theorem latchCommand_result (c : CmdWord) : (latchCommand c s).result = s.result := rfl
@[simp] theorem latchCommand_failStep (c : CmdWord) : (latchCommand c s).failStep = s.failStep := rfl
@[simp] theorem latchCommand_chip (c : CmdWord) : (latchCommand c s).chip = s.chip := rfl
@[simp] theorem latchCommand_intPending (c : CmdWord) : (latchCommand c s).intPending = s.intPending := rfl
@[simp] theorem latchCommand_dpin (c : CmdWord) : (latchCommand c s).dpin = s.dpin := rfl
@[simp] theorem latchCommand_dph (c : CmdWord) : (latchCommand c s).dph = s.dph := rfl
@[simp] theorem latchCommand_commands (c : CmdWord) : (latchCommand c s).commands = s.commands.tail := rfl
@[simp] theorem latchCommand_answers (c : CmdWord) : (latchCommand c s).answers = s.answers := rfl
@[simp] theorem latchCommand_outside (c : CmdWord) : (latchCommand c s).outside = s.outside := rfl

/-! ## startOperation -/

@[simp] theorem startOperation_chipAddr : (startOperation s).chipAddr = s.chipAddr := rfl
@[simp] theorem startOperation_busy : (startOperation s).busy = true := rfl
@[simp] theorem startOperation_op : (startOperation s).op = s.op := rfl
@[simp] theorem startOperation_pin : (startOperation s).pin = s.pin := rfl
@[simp] theorem startOperation_arg : (startOperation s).arg = s.arg := rfl
@[simp] theorem startOperation_step : (startOperation s).step = 0#3 := rfl
@[simp] theorem startOperation_rd : (startOperation s).rd = s.rd := rfl
@[simp] theorem startOperation_v : (startOperation s).v = s.v := rfl
@[simp] theorem startOperation_rspValid : (startOperation s).rspValid = s.rspValid := rfl
@[simp] theorem startOperation_status : (startOperation s).status = s.status := rfl
@[simp] theorem startOperation_result : (startOperation s).result = s.result := rfl
@[simp] theorem startOperation_failStep : (startOperation s).failStep = s.failStep := rfl
@[simp] theorem startOperation_chip : (startOperation s).chip = s.chip := rfl
@[simp] theorem startOperation_intPending : (startOperation s).intPending = s.intPending := rfl
@[simp] theorem startOperation_dpin : (startOperation s).dpin = s.dpin := rfl
@[simp] theorem startOperation_dph : (startOperation s).dph = s.dph := rfl
@[simp] theorem startOperation_commands : (startOperation s).commands = s.commands := rfl
@[simp] theorem startOperation_answers : (startOperation s).answers = s.answers := rfl
@[simp] theorem startOperation_outside : (startOperation s).outside = s.outside := rfl

/-! ## complete -/

@[simp] theorem complete_chipAddr (r : Bool) : (complete r s).chipAddr = s.chipAddr := rfl
@[simp] theorem complete_busy (r : Bool) : (complete r s).busy = false := rfl
@[simp] theorem complete_op (r : Bool) : (complete r s).op = s.op := rfl
@[simp] theorem complete_pin (r : Bool) : (complete r s).pin = s.pin := rfl
@[simp] theorem complete_arg (r : Bool) : (complete r s).arg = s.arg := rfl
@[simp] theorem complete_step (r : Bool) : (complete r s).step = s.step := rfl
@[simp] theorem complete_rd (r : Bool) : (complete r s).rd = s.rd := rfl
@[simp] theorem complete_v (r : Bool) : (complete r s).v = s.v := rfl
@[simp] theorem complete_rspValid (r : Bool) : (complete r s).rspValid = true := rfl
@[simp] theorem complete_status (r : Bool) : (complete r s).status = statusOk := rfl
@[simp] theorem complete_result (r : Bool) : (complete r s).result = r := rfl
@[simp] theorem complete_failStep (r : Bool) : (complete r s).failStep = 0#3 := rfl
@[simp] theorem complete_chip (r : Bool) : (complete r s).chip = s.chip := rfl
@[simp] theorem complete_intPending (r : Bool) : (complete r s).intPending = s.intPending := rfl
@[simp] theorem complete_dpin (r : Bool) : (complete r s).dpin = s.dpin := rfl
@[simp] theorem complete_dph (r : Bool) : (complete r s).dph = s.dph := rfl
@[simp] theorem complete_commands (r : Bool) : (complete r s).commands = s.commands := rfl
@[simp] theorem complete_answers (r : Bool) : (complete r s).answers = s.answers := rfl
@[simp] theorem complete_outside (r : Bool) : (complete r s).outside = s.outside := rfl

/-! ## resetBlock -/

@[simp] theorem resetBlock_chipAddr : (resetBlock s).chipAddr = Config.pChipAddr := rfl
@[simp] theorem resetBlock_busy : (resetBlock s).busy = false := rfl
@[simp] theorem resetBlock_op : (resetBlock s).op = 0#8 := rfl
@[simp] theorem resetBlock_pin : (resetBlock s).pin = 0#8 := rfl
@[simp] theorem resetBlock_arg : (resetBlock s).arg = 0#8 := rfl
@[simp] theorem resetBlock_step : (resetBlock s).step = 0#3 := rfl
@[simp] theorem resetBlock_rd : (resetBlock s).rd = 0#8 := rfl
@[simp] theorem resetBlock_v : (resetBlock s).v = 0#4 := rfl
@[simp] theorem resetBlock_rspValid : (resetBlock s).rspValid = false := rfl
@[simp] theorem resetBlock_status : (resetBlock s).status = 0#3 := rfl
@[simp] theorem resetBlock_result : (resetBlock s).result = false := rfl
@[simp] theorem resetBlock_failStep : (resetBlock s).failStep = 0#3 := rfl
@[simp] theorem resetBlock_chip : (resetBlock s).chip = s.chip := rfl
@[simp] theorem resetBlock_intPending : (resetBlock s).intPending = s.intPending := rfl
@[simp] theorem resetBlock_dpin : (resetBlock s).dpin = s.dpin := rfl
@[simp] theorem resetBlock_dph : (resetBlock s).dph = s.dph := rfl
@[simp] theorem resetBlock_commands : (resetBlock s).commands = s.commands := rfl
@[simp] theorem resetBlock_answers : (resetBlock s).answers = s.answers := rfl
@[simp] theorem resetBlock_outside : (resetBlock s).outside = s.outside := rfl

/-! ## presentWord -/

@[simp] theorem presentWord_chipAddr (nbits w : Nat) : (presentWord s nbits w).chipAddr = s.chipAddr := rfl
@[simp] theorem presentWord_busy (nbits w : Nat) : (presentWord s nbits w).busy = false := rfl
@[simp] theorem presentWord_op (nbits w : Nat) : (presentWord s nbits w).op = s.op := rfl
@[simp] theorem presentWord_pin (nbits w : Nat) : (presentWord s nbits w).pin = s.pin := rfl
@[simp] theorem presentWord_arg (nbits w : Nat) : (presentWord s nbits w).arg = s.arg := rfl
@[simp] theorem presentWord_step (nbits w : Nat) : (presentWord s nbits w).step = s.step := rfl
@[simp] theorem presentWord_rd (nbits w : Nat) : (presentWord s nbits w).rd = s.rd := rfl
@[simp] theorem presentWord_v (nbits w : Nat) : (presentWord s nbits w).v = s.v := rfl
@[simp] theorem presentWord_rspValid (nbits w : Nat) : (presentWord s nbits w).rspValid = s.rspValid := rfl
@[simp] theorem presentWord_status (nbits w : Nat) : (presentWord s nbits w).status = s.status := rfl
@[simp] theorem presentWord_result (nbits w : Nat) : (presentWord s nbits w).result = s.result := rfl
@[simp] theorem presentWord_failStep (nbits w : Nat) : (presentWord s nbits w).failStep = s.failStep := rfl
@[simp] theorem presentWord_chip (nbits w : Nat) : (presentWord s nbits w).chip = s.chip := rfl
@[simp] theorem presentWord_intPending (nbits w : Nat) : (presentWord s nbits w).intPending = s.intPending := rfl
@[simp] theorem presentWord_dpin (nbits w : Nat) : (presentWord s nbits w).dpin = s.dpin := rfl
@[simp] theorem presentWord_dph (nbits w : Nat) : (presentWord s nbits w).dph = s.dph := rfl
@[simp] theorem presentWord_commands (nbits w : Nat) : (presentWord s nbits w).commands = BitVec.ofNat 24 (w % 2 ^ nbits) :: s.commands.tail := rfl
@[simp] theorem presentWord_answers (nbits w : Nat) : (presentWord s nbits w).answers = s.answers := rfl
@[simp] theorem presentWord_outside (nbits w : Nat) : (presentWord s nbits w).outside = [] := rfl

end Sys2Proof.Machine
end

