-- ==== Sys2Proof/Laws/Ops.lean ====
section
/-! SUPPORT. Once per shared operation, everything it can do. -/

namespace Sys2Proof.Machine

/-- Every meaning is the sequencer running the command's operation rule. -/
theorem exec_eq_runOperation (i : Instr) (s : State) : exec i s = runOperation i (microcode i) (resultOf i) s := by
  cases i <;> rfl

/-- What a transaction can do: wait, succeed, abort. -/
theorem transact_next_cases {act : TxAction} {s t : State} (h : transact act s = .next t) :
    (s.answers = [] ∧ t = s) ∨
    (∃ ans rest, s.answers = ans :: rest ∧ ans.ok = true ∧ t = advance act ans (answered act ans rest s)) ∨
    (∃ ans rest, s.answers = ans :: rest ∧ ans.ok = false ∧
      t = raise (.busFail s.step) (answered act ans rest s)) := by
  unfold transact at h
  split at h
  · split at h
    · next hs => exact .inl ⟨hs, by simpa using h.symm⟩
    · next ans rest hs =>
      split at h
      · next hok => exact .inr (.inl ⟨ans, rest, hs, hok, by simpa using h.symm⟩)
      · next hok => exact .inr (.inr ⟨ans, rest, hs, by simpa using hok, by simpa using h.symm⟩)
  · cases h

/-- A transaction on a mapped register never stops the machine. -/
theorem transact_of_mapped {act : TxAction} {s : State} (h : isMapped act.tx.addr = true) :
    ∃ t, transact act s = .next t := by
  unfold transact
  rw [if_pos h]
  split
  · exact ⟨_, rfl⟩
  · split <;> exact ⟨_, rfl⟩

/-- What acceptance can do. -/
theorem accept_cases (c : CmdWord) (s : State) :
    (∃ e, acceptanceCheck c = some e ∧ accept c s = reject c e s) ∨
    (acceptanceCheck c = none ∧ accept c s = startOperation (latchCommand c s)) := by
  unfold accept
  cases h : acceptanceCheck c with
  | none => exact .inr ⟨rfl, rfl⟩
  | some e => exact .inl ⟨e, rfl, rfl⟩

/-- What one step of an operation can do: acceptance, a transaction, completion. -/
theorem runOperation_next_cases {i : Instr} {code : Microcode} {result : Byte → Bool} {s t : State}
    (h : runOperation i code result s = .next t) :
    (s.busy = false ∧ t = accept (encode i) s) ∨
    (s.busy = true ∧ ∃ action, code[s.step.toNat]? = some action ∧ transact (action s.rd s.v) s = .next t) ∨
    (s.busy = true ∧ s.step.toNat = code.length ∧ t = complete (result s.rd) s) := by
  unfold runOperation at h
  split at h
  · next hb =>
    split at h
    · next action ha => exact .inr (.inl ⟨hb, action, ha, h⟩)
    · split at h
      · next hl => exact .inr (.inr ⟨hb, hl, by simpa using h.symm⟩)
      · cases h
  · next hb => exact .inl ⟨by simpa using hb, by simpa using h.symm⟩

/-- What the block's step can do. -/
theorem blockTurn_next_cases {s t : State} (h : blockTurn s = .next t) :
    (s.busy = true ∧ ∃ i, decode (latchedWord s) = .ok i ∧ exec i s = .next t) ∨
    (s.busy = false ∧ s.commands = [] ∧ t = s) ∨
    (s.busy = false ∧ ∃ c cs i, s.commands = c :: cs ∧ decode c = .ok i ∧ exec i s = .next t) ∨
    (s.busy = false ∧ ∃ c cs e, s.commands = c :: cs ∧ decode c = .error e ∧ t = reject c e s) := by
  unfold blockTurn at h
  split at h
  · next hb =>
    split at h
    · next i hi => exact .inl ⟨hb, i, hi, h⟩
    · cases h
  · next hb =>
    have hb : s.busy = false := by simpa using hb
    unfold State.cmd at h
    cases hc : s.commands with
    | nil => exact .inr (.inl ⟨hb, rfl, by simpa [hc] using h.symm⟩)
    | cons c cs =>
      simp only [hc, List.head?_cons] at h
      split at h
      · next i hi => exact .inr (.inr (.inl ⟨hb, c, cs, i, rfl, hi, h⟩))
      · next e he => exact .inr (.inr (.inr ⟨hb, c, cs, e, rfl, he, by simpa using h.symm⟩))

/-- What a step can do: the block's step, or one move of the outside. -/
theorem step_next_cases {s t : State} (h : step s = .next t) :
    (s.outside = [] ∧ blockTurn s = .next t) ∨
    (∃ rest, s.outside = .blockStep :: rest ∧ blockTurn { s with outside := rest } = .next t) ∨
    (∃ m rest, s.outside = m :: rest ∧ m ≠ .blockStep ∧ t = outsideMove m { s with outside := rest }) := by
  unfold step turn at h
  split at h
  · next hs => exact .inl ⟨hs, h⟩
  · next rest hs => exact .inr (.inl ⟨rest, hs, h⟩)
  all_goals
    next hs => exact .inr (.inr ⟨_, _, hs, by simp, by simpa using h.symm⟩)

/-- With nothing scheduled outside, a step is the block's. -/
theorem step_of_alone {s : State} (h : s.outside = []) : step s = blockTurn s := by
  unfold step turn
  rw [h]

theorem configReg_mapped : ∀ p : PinIndex, isMapped (configReg p) = true := by decide
theorem inputReg_mapped : ∀ p : PinIndex, isMapped (inputReg p) = true := by decide
theorem phaseReg_mapped : ∀ (p : PinIndex) (ph : BitVec 1), isMapped (phaseReg p ph) = true := by decide
theorem intensityReg_mapped : ∀ p : PinIndex, isMapped (intensityReg p) = true := by decide

theorem analogWriteCode_mapped (p : PinIndex) (x : Byte) (rd : Byte) (v : Nibble) :
    ∀ f ∈ analogWriteCode p x, isMapped (f rd v).tx.addr = true := by
  simp [analogWriteCode, Transaction.addr, phaseReg_mapped, intensityReg_mapped]

theorem interruptCode_mapped (b : Bool) (rd : Byte) (v : Nibble) :
    ∀ f ∈ writeInte b ++ ackReads, isMapped (f rd v).tx.addr = true := by
  have h1 : isMapped chipCfg = true := rfl
  have h2 : isMapped in0 = true := rfl
  have h3 : isMapped in1 = true := rfl
  simp [writeInte, ackReads, Transaction.addr, h1, h2, h3]

/-- Every transaction of an operation rule addresses a mapped register (R63, R139). -/
theorem microcode_mapped (i : Instr) (rd : Byte) (v : Nibble) :
    ∀ f ∈ microcode i, isMapped (f rd v).tx.addr = true := by
  cases i with
  | begin =>
    have h : ∀ a ∈ [cfg0, cfg1, ph00, ph01, chipCfg, globalInt], isMapped a = true := by decide
    simpa [microcode, beginCode, Transaction.addr] using h
  | pinMode pin mode => simp [microcode, pinModeCode, Transaction.addr, configReg_mapped]
  | digitalRead pin => simp [microcode, digitalReadCode, Transaction.addr, inputReg_mapped]
  | digitalWrite pin value => exact analogWriteCode_mapped _ _ rd v
  | analogWrite pin intensity => exact analogWriteCode_mapped _ _ rd v
  | enableInterrupt => exact interruptCode_mapped true rd v
  | disableInterrupt => exact interruptCode_mapped false rd v
  | clearInterrupt => exact fun f hf => interruptCode_mapped true rd v f (List.mem_append_right _ hf)

/-- A transaction an operation rule gives never stops the machine. -/
theorem transact_of_microcode (i : Instr) (s : State) {action : Byte → Nibble → TxAction}
    (h : (microcode i)[s.step.toNat]? = some action) : ∃ t, transact (action s.rd s.v) s = .next t :=
  transact_of_mapped (microcode_mapped i s.rd s.v action (List.mem_of_getElem? h))

end Sys2Proof.Machine
end

