-- ==== Sys2Proof/Laws/PerInstr.lean ====
section
/-! SUPPORT. Facts about the commands as words, one lemma per constructor. Family TableRow: the word of a well-formed
command matches its row of spec/opcode_table.json. -/

namespace Sys2Proof

/-- A masked 24-bit word, read through its number. -/
theorem pinWord_matches (op pin arg : Byte) (h : pin.toNat < 16) :
    packWord op pin arg &&& 0xFFF000#24 = packWord op 0#8 0#8 := by
  unfold packWord
  have hp : ∀ q : Byte, q.toNat < 16 → q &&& 0xF0#8 = 0#8 := by decide
  have hsplit : 0xFFF000#24 = 0xFF#8 ++ 0xF0#8 ++ 0x00#8 := rfl
  have ho : op &&& 0xFF#8 = op := by
    revert op
    decide
  rw [hsplit, BitVec.and_append, BitVec.and_append, hp pin h, ho]
  simp

end Sys2Proof

namespace Sys2Proof.Laws.TableRow

/-- The word of the well-formed command `i` matches `i`'s row of the opcode table. -/
def Statement (i : Instr) : Prop := i.wellFormed = true → i.tableRow.matches (encode i) = true

theorem begin : Statement .begin := fun _ => rfl

theorem enableInterrupt : Statement .enableInterrupt := fun _ => rfl

theorem disableInterrupt : Statement .disableInterrupt := fun _ => rfl

theorem clearInterrupt : Statement .clearInterrupt := fun _ => rfl

theorem pinMode (pin : Byte) (mode : PinMode) : Statement (.pinMode pin mode) := by
  revert pin
  cases mode <;> unfold Statement <;> decide

theorem digitalRead (pin : Byte) : Statement (.digitalRead pin) := by
  revert pin
  unfold Statement
  decide

theorem digitalWrite (pin value : Byte) : Statement (.digitalWrite pin value) := by
  intro h
  have hp : pin.toNat < 16 := by simpa [Instr.wellFormed, validPin] using h
  have := pinWord_matches 0x04#8 pin value hp
  exact beq_iff_eq.2 this

theorem analogWrite (pin intensity : Byte) : Statement (.analogWrite pin intensity) := by
  intro h
  have hp : pin.toNat < 16 := by simpa [Instr.wellFormed, validPin] using h
  have := pinWord_matches 0x05#8 pin intensity hp
  exact beq_iff_eq.2 this

end Sys2Proof.Laws.TableRow
end

