-- ==== Sys2Proof/Tests/Slice0.lean ====
section
/-! SUPPORT. Tests: words written out bit by bit, the spec's own vectors (spec/95_test_vectors.md), one or two steps per
command, and one witness theorem per statement with hypotheses (several where a statement has several clauses). -/

namespace Sys2Proof.Tests

open Sys2Proof Sys2Proof.Machine

/-! ## Well-formedness smoke -/

theorem test_wf_pinMode_16 : (Instr.pinMode 16#8 .input).wellFormed = false := by decide
theorem test_wf_digitalRead_16 : (Instr.digitalRead 16#8).wellFormed = false := by decide
theorem test_wf_digitalWrite_255 : (Instr.digitalWrite 255#8 1#8).wellFormed = false := by decide
theorem test_wf_analogWrite_16 : (Instr.analogWrite 16#8 1#8).wellFormed = false := by decide
theorem test_wf_pin_15 : (Instr.analogWrite 15#8 255#8).wellFormed = true := by decide

/-! ## Decoding: words from R100's fields and R102's opcodes, bit by bit -/

theorem test_decode_begin : decode 0b00000001_00000000_00000000#24 = .ok .begin := by decide
theorem test_decode_pinMode : decode 0b00000010_00000100_00000001#24 = .ok (.pinMode 4#8 .input) := by decide
theorem test_decode_digitalRead : decode 0b00000011_00001001_00000000#24 = .ok (.digitalRead 9#8) := by decide
theorem test_decode_digitalWrite : decode 0b00000100_00000101_10000000#24 = .ok (.digitalWrite 5#8 128#8) := by decide
theorem test_decode_analogWrite : decode 0b00000101_00000111_11001000#24 = .ok (.analogWrite 7#8 200#8) := by decide
theorem test_decode_enableInterrupt : decode 0b00000110_00000000_00000000#24 = .ok .enableInterrupt := by decide
theorem test_decode_disableInterrupt : decode 0b00000111_00000000_00000000#24 = .ok .disableInterrupt := by decide
theorem test_decode_clearInterrupt : decode 0b00001000_00000000_00000000#24 = .ok .clearInterrupt := by decide

/-- 95_test_vectors 2.1: the priority of the checks. -/
theorem test_decode_priority_op : decode 0x00FFFF#24 = .error (.illegalOp 0#8) := by decide
theorem test_decode_priority_pin : decode 0x0210FF#24 = .error (.invalidPin 16#8) := by decide
theorem test_decode_opcode_9 : decode 0x090000#24 = .error (.illegalOp 9#8) := by decide
theorem test_decode_mode_2 : decode 0x020302#24 = .error (.illegalArg 2#8) := by decide
theorem test_decode_digitalRead_arg : decode 0x030301#24 = .error (.illegalArg 1#8) := by decide
theorem test_decode_pinless_pin : decode 0x060100#24 = .error (.illegalArg 0#8) := by decide

/-- A word with a bit above the 24 of CMD24 is no command (R100). -/
theorem test_table_word_too_long : decodeTableWord 32 0x01010000 = none := by decide
theorem test_table_word : decodeTableWord 24 0x050308 = some (.analogWrite 3#8 8#8) := by decide

/-- R109: no range check in the assembler. -/
theorem test_assemble_mode_number : assemble (.pinMode 16#8 (.number 255#8)) = 0x0210FF#24 := by decide
theorem test_assemble_high : assemble (.digitalWrite 4#8 .high) = 0x040401#24 := by decide

/-! ## The decoder functions (95_test_vectors 1 and 2.2, 2.3) -/

theorem test_writeBit : writeBit 0xA5#8 0x08#8 true = 0xAD#8 ∧ writeBit 0xA5#8 0x04#8 false = 0xA1#8 := by decide
theorem test_readBit : readBit 0x80#8 15#4 = true ∧ readBit 0x7F#8 7#4 = false := by decide
theorem test_clamp : clamp 16#8 = 15#4 ∧ clamp 255#8 = 15#4 ∧ clamp 1#8 = 1#4 := by decide
theorem test_phaseSelect : phaseSelect 0#4 = (false, 15#4) ∧ phaseSelect 15#4 = (true, 15#4) := by decide
theorem test_nibbleMerge : nibbleMerge 0xA3#8 10#4 6#4 = 0xA6#8 ∧ nibbleMerge 0xA3#8 11#4 6#4 = 0x63#8 := by decide
theorem test_dwriteMap : dwriteMap 0x02#8 = 15#8 ∧ dwriteMap 0x00#8 = 0#8 := by decide
theorem test_decodePort_valid :
    decodePort 12#8 1#1 = ⟨true, 1#1, 4#3, 0x10#8, 0x07#8, 0x01#8, 0x0B#8, 0x16#8, 0#1⟩ := by decide
theorem test_decodePort_invalid :
    decodePort 255#8 0#1 = ⟨false, 1#1, 7#3, 0x80#8, 0x07#8, 0x01#8, 0x03#8, 0x17#8, 1#1⟩ := by decide

/-! ## The chip's registers -/

theorem test_memory_order : (Memory.write [(2, 1#8), (7, 2#8)] 3 9#8) = [(2, 1#8), (3, 9#8), (7, 2#8)] := by decide
theorem test_memory_overwrite : (Memory.write [(2, 1#8)] 2 9#8) = [(2, 9#8)] := by decide
theorem test_memory_reset_addresses : State.reset.chip.map Prod.fst =
    [0x00, 0x01, 0x02, 0x03, 0x06, 0x07, 0x0A, 0x0B, 0x0E, 0x0F, 0x10, 0x11, 0x12, 0x13, 0x14, 0x15, 0x16, 0x17] := by
  decide
theorem test_memory_unmapped : Memory.set [] 0x04#8 1#8 = [] := by decide

/-! ## States -/

/-- An answer: success with the byte `d`. -/
def ok (d : Byte) : BusAnswer := ⟨true, d, false, false, []⟩

/-- An answer: failure; `latched` for a write, `pend` for a read of an input register. -/
def bad (latched pend : Bool) : BusAnswer := ⟨false, 0#8, latched, pend, []⟩

/-- After reset, with the word `c` on the command port and these answers to come. -/
def idle (c : CmdWord) (answers : List BusAnswer) : State :=
  { State.reset with commands := [c], answers := answers }

/-- BUSY with the command word `c` at transaction `k`, an earlier response's fields still held. -/
def busyAt (c : CmdWord) (k : BitVec 3) (rd : Byte) (v : Nibble) (answers : List BusAnswer) : State :=
  { State.reset with
    busy := true, op := opField c, pin := pinField c, arg := argField c, step := k, rd := rd, v := v
    chip := (State.reset.chip.set 0x02#8 0xFF#8).set 0x11#8 0x05#8, intPending := true, answers := answers }

/-- One field of the next state. -/
def after {α : Type} (f : State → α) : Host.Outcome State Fault Refusal → Option α
  | .next t => some (f t)
  | .fault _ => none
  | .refused _ => none

/-! ## One step per command: the first step after reset runs the word's command -/

theorem test_first_begin :
    step (State.reset.withFetchWord 24 0x010000) = exec .begin (State.reset.withFetchWord 24 0x010000) := rfl
theorem test_first_pinMode : step (State.reset.withFetchWord 24 0x020401) =
    exec (.pinMode 4#8 .input) (State.reset.withFetchWord 24 0x020401) := rfl
theorem test_first_digitalRead : step (State.reset.withFetchWord 24 0x030900) =
    exec (.digitalRead 9#8) (State.reset.withFetchWord 24 0x030900) := rfl
theorem test_first_digitalWrite : step (State.reset.withFetchWord 24 0x040501) =
    exec (.digitalWrite 5#8 1#8) (State.reset.withFetchWord 24 0x040501) := rfl
theorem test_first_analogWrite : step (State.reset.withFetchWord 24 0x050308) =
    exec (.analogWrite 3#8 8#8) (State.reset.withFetchWord 24 0x050308) := rfl
theorem test_first_enableInterrupt : step (State.reset.withFetchWord 24 0x060000) =
    exec .enableInterrupt (State.reset.withFetchWord 24 0x060000) := rfl
theorem test_first_disableInterrupt : step (State.reset.withFetchWord 24 0x070000) =
    exec .disableInterrupt (State.reset.withFetchWord 24 0x070000) := rfl
theorem test_first_clearInterrupt : step (State.reset.withFetchWord 24 0x080000) =
    exec .clearInterrupt (State.reset.withFetchWord 24 0x080000) := rfl

/-! ## One step or request per command, from the spec's vectors -/

/-- L1.8: transaction 4 of begin writes 0x01 to 0x0F at the default `P_BLINK_EN_BIT`. -/
theorem test_begin_blink :
    busRequest (busyAt 0x010000#24 4#3 0#8 0#4 []) = some (.write Config.pChipAddr 0x0F#8 0x01#8) := rfl
/-- 2.5, the C1 regression: pinMode 11, INPUT writes 0x08 to 0x07. -/
theorem test_pinMode_group :
    busRequest (busyAt 0x020B01#24 1#3 0#8 0#4 []) = some (.write Config.pChipAddr 0x07#8 0x08#8) := rfl
/-- 2.6: digitalRead 15 with IN1 = 0x80 gives 1. -/
theorem test_digitalRead_result :
    after State.result (step (busyAt 0x030F00#24 1#3 0x80#8 0#4 [])) = some true := by decide
/-- 2.8: digitalWrite 5, LOW writes 0xDF to 0x02. -/
theorem test_digitalWrite_phase :
    busRequest (busyAt 0x040500#24 1#3 0xFF#8 15#4 []) = some (.write Config.pChipAddr 0x02#8 0xDF#8) := rfl
/-- L1.9: analogWrite 3, 8 with pin 2 at 5 leaves 0x85 in 0x11. -/
theorem test_analogWrite_intensity :
    after (fun t => t.chip.read 0x11) (step (busyAt 0x050308#24 3#3 0x05#8 8#4 [ok 0#8])) = some (some 0x85#8) := by
  decide
/-- 2.9: enableInterrupt with 0x0F = 0xF7 writes 0xFF. -/
theorem test_enableInterrupt_write :
    busRequest (busyAt 0x060000#24 1#3 0xF7#8 0#4 []) = some (.write Config.pChipAddr 0x0F#8 0xFF#8) := rfl
/-- 2.9: disableInterrupt with 0x0F = 0xFF writes 0xF7. -/
theorem test_disableInterrupt_write :
    busRequest (busyAt 0x070000#24 1#3 0xFF#8 0#4 []) = some (.write Config.pChipAddr 0x0F#8 0xF7#8) := rfl
/-- 2.9: clearInterrupt, F = {1}: BUS_FAIL at 1. -/
theorem test_clearInterrupt_fail :
    after (fun t => (t.status, t.failStep, t.busy)) (step (busyAt 0x080000#24 1#3 0#8 0#4 [bad false true])) =
      some (1#3, 1#3, false) := by decide

/-! ## Witnesses: encoding and decoding -/

theorem witness_DecodeOfEncodeIsTheCommand : (Instr.digitalWrite 15#8 255#8).wellFormed = true := by decide
theorem witness_LegalWordHasOneMeaning : decode 0x050F10#24 = .ok (.analogWrite 15#8 16#8) := by decide
theorem witness_DecodingAgreesWithTheOpcodeTable : ∃ r ∈ opcodeTable, r.matches 0x020F01#24 = true := by decide

/-! ## Witnesses: the step relation -/

/-- A state of `AcceptanceFollowsTheChecksInOrder` for each word. -/
theorem witness_Acceptance_state (op pin arg : Byte) :
    (idle (packWord op pin arg) []).outside = [] ∧ (idle (packWord op pin arg) []).busy = false ∧
      (idle (packWord op pin arg) []).commands = packWord op pin arg :: [] := ⟨rfl, rfl, rfl⟩
theorem witness_Acceptance_illegalOp :
    ¬(1 ≤ (0x00#8).toNat ∧ (0x00#8).toNat ≤ 8) ∧ ¬(1 ≤ (0x09#8).toNat ∧ (0x09#8).toNat ≤ 8) := by decide
theorem witness_Acceptance_invalidPin : 0x05#8 ∈ [0x02#8, 0x03#8, 0x04#8, 0x05#8] ∧ 16 ≤ (16#8).toNat := by decide
theorem witness_Acceptance_pinless : 0x08#8 ∈ [0x01#8, 0x06#8, 0x07#8, 0x08#8] ∧ (0#8 ≠ 0#8 ∨ 1#8 ≠ 0#8) := by decide
theorem witness_Acceptance_digitalReadArg : 0x03#8 = 0x03#8 ∧ (15#8).toNat < 16 ∧ 1#8 ≠ 0#8 := by decide
theorem witness_Acceptance_mode : 0x02#8 = 0x02#8 ∧ (15#8).toNat < 16 ∧ 2#8 ≠ 0#8 ∧ 2#8 ≠ 1#8 := by decide
theorem witness_Acceptance_legal :
    (0x01#8 ∈ [0x01#8, 0x06#8, 0x07#8, 0x08#8] ∧ 0#8 = 0#8 ∧ 0#8 = 0#8) ∧
    (0x03#8 = 0x03#8 ∧ (15#8).toNat < 16 ∧ 0#8 = 0#8) ∧
    (0x02#8 = 0x02#8 ∧ (15#8).toNat < 16 ∧ (1#8 = 0#8 ∨ 1#8 = 1#8)) ∧
    (0x05#8 ∈ [0x04#8, 0x05#8] ∧ (15#8).toNat < 16) := by decide

theorem witness_EveryWellFormedCommandIsAccepted :
    (Instr.analogWrite 15#8 255#8).wellFormed = true ∧ (idle 0x050FFF#24 []).busy = false := by decide
theorem witness_IllFormedCommandIsRejected :
    (Instr.analogWrite 16#8 1#8).wellFormed = false ∧ (idle 0x051001#24 []).busy = false := by decide

theorem witness_Step_idle :
    (idle 0x030F00#24 []).outside = [] ∧ (idle 0x030F00#24 []).busy = false ∧
      (idle 0x030F00#24 []).commands = 0x030F00#24 :: [] ∧ decode 0x030F00#24 = .ok (.digitalRead 15#8) := by decide
theorem witness_Step_busy :
    let s := busyAt 0x050308#24 2#3 0xFF#8 8#4 []
    s.outside = [] ∧ s.busy = true ∧ decode (packWord s.op s.pin s.arg) = .ok (.analogWrite 3#8 8#8) := by decide
theorem witness_Step_yield :
    let s := { busyAt 0x050308#24 2#3 0xFF#8 8#4 [] with outside := [.blockStep] }
    s.outside = .blockStep :: [] ∧ s.busy = true ∧
      decode (packWord s.op s.pin s.arg) = .ok (.analogWrite 3#8 8#8) := by decide
theorem witness_Step_yield_idle :
    let s := { idle 0x030F00#24 [] with outside := [.blockStep, .reset false false] }
    s.outside = .blockStep :: [.reset false false] ∧ s.busy = false ∧ s.commands = 0x030F00#24 :: [] ∧
      decode 0x030F00#24 = .ok (.digitalRead 15#8) := by decide
theorem witness_Step_yield_rejected :
    let s := { idle 0x051001#24 [] with outside := [.blockStep] }
    s.outside = .blockStep :: [] ∧ s.busy = false ∧ s.commands = 0x051001#24 :: [] ∧
      decode 0x051001#24 = .error (.invalidPin 16#8) := by decide
theorem witness_Step_yield_waits :
    let s := { State.reset with outside := [.blockStep] }
    s.outside = .blockStep :: [] ∧ s.busy = false ∧ s.commands = [] := ⟨rfl, rfl, rfl⟩
/-- `YieldedStepIsTheBlocksStep`, with a next state and, in a state no run reaches, with a fault. -/
theorem witness_YieldedStep_next :
    let s := { idle 0x010000#24 [] with outside := [.blockStep, .present 0x080000#24] }
    s.outside = .blockStep :: [.present 0x080000#24] ∧ ∃ t, step { s with outside := [] } = .next t := ⟨rfl, _, rfl⟩
theorem witness_YieldedStep_fault :
    let s := { busyAt 0x010000#24 7#3 0#8 0#4 [] with outside := [.blockStep] }
    s.outside = .blockStep :: [] ∧ step { s with outside := [] } = .fault .stepBeyondOperation := ⟨rfl, rfl⟩
theorem witness_Step_word : decodeTableWord 24 0x080000 = some .clearInterrupt := by decide

theorem witness_IdleBlockWaitsForACommand :
    State.reset.outside = [] ∧ State.reset.busy = false ∧ State.reset.commands = [] := ⟨rfl, rfl, rfl⟩
theorem witness_BusyBlockAcceptsNoCommand :
    ∃ t, (busyAt 0x050308#24 0#3 0#8 0#4 [ok 0#8]).outside = [] ∧
      (busyAt 0x050308#24 0#3 0#8 0#4 [ok 0#8]).busy = true ∧
      step (busyAt 0x050308#24 0#3 0#8 0#4 [ok 0#8]) = .next t := ⟨_, rfl, rfl, rfl⟩

/-- `BusyTransactionStep`, unanswered, succeeding, and failing at the last transaction of begin. -/
theorem witness_BusyTransactionStep_waits :
    let s := busyAt 0x050308#24 3#3 0x05#8 8#4 []
    s.outside = [] ∧ currentAction s = some { tx := .write 0x11#8 0x85#8 } ∧ s.answers = [] := by decide
theorem witness_BusyTransactionStep_succeeds :
    let s := busyAt 0x050308#24 0#3 0#8 0#4 [ok 0xFF#8]
    s.outside = [] ∧ currentAction s = some { tx := .read 0x02#8, latchV := some 8#4 } ∧
      s.answers = ok 0xFF#8 :: [] ∧ (ok 0xFF#8).ok = true := by decide
theorem witness_BusyTransactionStep_fails :
    let s := busyAt 0x010000#24 5#3 0#8 0#4 [bad true false]
    s.outside = [] ∧ currentAction s = some { tx := .write 0x0E#8 0xFF#8 } ∧
      s.answers = bad true false :: [] ∧ (bad true false).ok = false := by decide

theorem witness_CompletionWritesTheResponse :
    let s := busyAt 0x030F00#24 1#3 0x80#8 0#4 []
    s.outside = [] ∧ s.busy = true ∧ decode (packWord s.op s.pin s.arg) = .ok (.digitalRead 15#8) ∧
      s.step.toNat = transactionCount (.digitalRead 15#8) := by decide
theorem witness_FailedTransactionAborts :
    let s := busyAt 0x010000#24 5#3 0#8 0#4 [bad false false]
    s.outside = [] ∧ busRequest s ≠ none ∧ s.answers = bad false false :: [] ∧ (bad false false).ok = false :=
  ⟨rfl, Option.some_ne_none _, rfl, rfl⟩
theorem witness_UnansweredTransactionHoldsForEver :
    let s := busyAt 0x080000#24 1#3 0#8 0#4 []
    s.outside = [] ∧ busRequest s ≠ none ∧ s.answers = [] :=
  ⟨rfl, Option.some_ne_none _, rfl⟩
theorem witness_OnlySixteenAddressesAreIssued :
    busRequest (busyAt 0x050F00#24 2#3 0#8 15#4 []) = some (.read Config.pChipAddr 0x17#8) := rfl

/-! ## Witnesses: completions. Each command from `idle` with its answers. -/

theorem witness_BeginRunsToCompletion :
    let s := idle 0x010000#24 [ok 0, ok 0, ok 0, ok 0, ok 0, ok 0]
    s.busy = false ∧ s.answers = ok 0 :: ok 0 :: ok 0 :: ok 0 :: ok 0 :: ok 0 :: [] ∧
      ∀ a ∈ [ok 0, ok 0, ok 0, ok 0, ok 0, ok 0], a.ok = true := by decide
theorem witness_PinModeRunsToCompletion :
    let s := idle 0x020F01#24 [ok 0x7F, ok 0]
    (15#8).toNat < 16 ∧ s.busy = false ∧ s.answers = ok 0x7F :: ok 0 :: [] ∧ (ok 0x7F).ok = true ∧
      (ok 0).ok = true := by decide
theorem witness_DigitalReadRunsToCompletion :
    let s := idle 0x030F00#24 [ok 0x80]
    (15#8).toNat < 16 ∧ s.busy = false ∧ s.answers = ok 0x80 :: [] ∧ (ok 0x80).ok = true := by decide
theorem witness_AnalogWriteRunsToCompletion :
    let s := idle 0x050F00#24 [ok 0xFF, ok 0, ok 0x12, ok 0]
    (15#8).toNat < 16 ∧ s.busy = false ∧ s.answers = ok 0xFF :: ok 0 :: ok 0x12 :: ok 0 :: [] ∧
      ∀ a ∈ [ok 0xFF, ok 0, ok 0x12, ok 0], a.ok = true := by decide
theorem witness_DigitalWriteRunsToCompletion :
    let s := idle 0x0400FF#24 [ok 0xFF, ok 0, ok 0x12, ok 0]
    (0#8).toNat < 16 ∧ s.busy = false ∧ s.answers = ok 0xFF :: ok 0 :: ok 0x12 :: ok 0 :: [] ∧
      ∀ a ∈ [ok 0xFF, ok 0, ok 0x12, ok 0], a.ok = true := by decide
theorem witness_EnableInterruptRunsToCompletion :
    let s := idle 0x060000#24 [ok 0xF7, ok 0, ok 0xAA, ok 0x55]
    s.busy = false ∧ s.answers = ok 0xF7 :: ok 0 :: ok 0xAA :: ok 0x55 :: [] ∧
      ∀ a ∈ [ok 0xF7, ok 0, ok 0xAA, ok 0x55], a.ok = true := by decide
theorem witness_DisableInterruptRunsToCompletion :
    let s := idle 0x070000#24 [ok 0xFF, ok 0, ok 0xAA, ok 0x55]
    s.busy = false ∧ s.answers = ok 0xFF :: ok 0 :: ok 0xAA :: ok 0x55 :: [] ∧
      ∀ a ∈ [ok 0xFF, ok 0, ok 0xAA, ok 0x55], a.ok = true := by decide
theorem witness_ClearInterruptRunsToCompletion :
    let s := idle 0x080000#24 [ok 0xAA, ok 0x55]
    s.busy = false ∧ s.answers = ok 0xAA :: ok 0x55 :: [] ∧ (ok 0xAA).ok = true ∧ (ok 0x55).ok = true := by decide

/-- The frame: a storing step, with an address that is not stored to and an address that is. -/
theorem witness_FrameOfABusyStep :
    let s := busyAt 0x050308#24 3#3 0x05#8 8#4 [ok 0]
    (∃ t, exec (.analogWrite 3#8 8#8) s = .next t) ∧ s.busy = true ∧
      storedRegister (.analogWrite 3#8 8#8) s = some 0x11#8 ∧
      (∀ a, storedRegister (.analogWrite 3#8 8#8) s = some a → a.toNat ≠ 0x02) ∧ sideSpares s 0x02 := by
  refine ⟨⟨_, rfl⟩, rfl, rfl, ?_, ?_⟩
  · intro a h
    cases (h : some 0x11#8 = some a)
    decide
  · intro ans rest h c hc
    cases (h : [ok 0] = ans :: rest)
    cases hc

/-! ## Witnesses: counts, the whole-operation view, equivalence -/

theorem witness_Counts_complete :
    (Instr.begin).wellFormed = true ∧ 6 ≤ [ok 0, ok 0, ok 0, ok 0, ok 0, ok 0].length ∧
      ∀ a ∈ [ok 0, ok 0, ok 0, ok 0, ok 0, ok 0], a.ok = true := by decide
theorem witness_Counts_rejected : decode 0xFF0F01#24 = .error (.illegalOp 0xFF#8) := by decide
theorem witness_Counts_failed :
    (observeCommand 0x080000#24 0#7 [ok 0, bad false true]).response = some ⟨1#3, false, 1#3⟩ := by decide
theorem witness_Statuses_failed :
    (observeCommand (packWord 0x08#8 0#8 0#8) 0#7 [bad false true]).response = some ⟨1#3, false, 0#3⟩ := by decide
theorem witness_Statuses_rejected :
    (observeCommand (packWord 0x02#8 3#8 2#8) 0#7 []).response = some ⟨4#3, false, 0#3⟩ := by decide
theorem witness_StepsRealiseTheWholeOperationView :
    let s := idle 0x050308#24 [ok 0xFF, ok 0, bad false false]
    s.busy = false ∧ s.outside = [] ∧ s.commands = 0x050308#24 :: [] := by decide
theorem witness_NoStateOfAnEarlierOperationIsUsed :
    let s := idle 0x050308#24 [ok 0xFF, ok 0]
    let s' := { s with rd := 0xAA#8, v := 9#4, step := 5#3, status := 2#3, rspValid := true, chip := [(0x02, 0#8)] }
    s.busy = false ∧ s'.busy = false ∧ s.outside = [] ∧ s'.outside = [] ∧ s.commands ≠ [] ∧
      s'.commands = s.commands ∧ s'.chipAddr = s.chipAddr ∧ s'.answers = s.answers :=
  ⟨rfl, rfl, rfl, rfl, by decide, rfl, rfl, rfl⟩
theorem witness_DigitalWriteIsAnalogWriteOf15Or0 :
    let s := idle 0x040580#24 [ok 0xFF, ok 0, ok 0, bad true false]
    (5#8).toNat < 16 ∧ s.busy = false ∧ s.outside = [] ∧ s.commands = packWord 0x04#8 5#8 0x80#8 :: [] := by decide

/-! ## Witnesses: the decoder's laws -/

theorem witness_NibbleMerge_even : (14#4).toNat % 2 = 0 := by decide
theorem witness_NibbleMerge_odd : (15#4).toNat % 2 = 1 := by decide
theorem witness_WriteBit_other : 0 ≠ (bitpos 15#4).toNat := by decide
theorem witness_Pins : intensityReg 15#4 = intensityReg 15#4 ∧ nibbleHi 15#4 = nibbleHi 15#4 := ⟨rfl, rfl⟩
theorem witness_Phase_bounds :
    (0#8).toNat = 0 ∧ 1 ≤ (1#8).toNat ∧ (15#8).toNat ≤ 15 ∧ 16 ≤ (16#8).toNat := by decide

/-! ## Witnesses: failures, the pending state, the window -/

theorem witness_FailedTransaction_read :
    let s := busyAt 0x080000#24 0#3 0#8 0#4 [bad false true]
    s.outside = [] ∧ s.answers = bad false true :: [] ∧ (bad false true).ok = false ∧
      busRequest s = some (.read s.chipAddr 0x00#8) := ⟨rfl, rfl, rfl, rfl⟩
theorem witness_FailedTransaction_write :
    let s := busyAt 0x060000#24 1#3 0x01#8 0#4 [bad true false]
    s.outside = [] ∧ s.answers = bad true false :: [] ∧ (bad true false).ok = false ∧
      busRequest s = some (.write s.chipAddr 0x0F#8 0x09#8) := ⟨rfl, rfl, rfl, rfl⟩
theorem witness_TwoReads_enable :
    let s := busyAt 0x060000#24 2#3 0#8 0#4 [ok 0, bad false true]
    s.step = 2#3 ∧ s.busy = true ∧ s.answers = ok 0 :: bad false true :: [] ∧ (ok 0).ok = true := by decide
theorem witness_TwoReads_clear :
    let s := busyAt 0x080000#24 0#3 0#8 0#4 [ok 0, ok 0]
    s.step = 0#3 ∧ s.busy = true ∧ s.answers = ok 0 :: ok 0 :: [] ∧ (ok 0).ok = true := by decide
theorem witness_PendingState_cleared :
    let s := busyAt 0x080000#24 1#3 0#8 0#4 [ok 0]
    s.outside = [] ∧ ∃ t, step s = .next t ∧ t.intPending ≠ s.intPending := ⟨rfl, _, rfl, by decide⟩
theorem witness_PendingState_drawn :
    let s := busyAt 0x020401#24 0#3 0#8 0#4 [ok 0]
    s.outside = [] ∧ ∃ t, step s = .next t ∧ t.intPending ≠ s.intPending := ⟨rfl, _, rfl, by decide⟩
/-- A read of 0x0F sets the pending state, and does not clear it. -/
theorem witness_PendingState_set :
    let s := { busyAt 0x060000#24 0#3 0#8 0#4 [bad false true] with intPending := false }
    s.outside = [] ∧ ∃ t, step s = .next t ∧ t.intPending ≠ s.intPending := ⟨rfl, _, rfl, by decide⟩
theorem test_chipCfg_read_keeps_pending :
    after State.intPending (step (busyAt 0x060000#24 0#3 0#8 0#4 [bad false false])) = some true := by decide
theorem witness_RmwWindowsOfEveryCommand :
    let s := busyAt 0x050F08#24 3#3 0x05#8 8#4 []
    s.busy = true ∧ decode (packWord s.op s.pin s.arg) = .ok (.analogWrite 15#8 8#8) ∧
      rmwWindow s = some 0x17#8 := ⟨rfl, by decide, by decide⟩
theorem witness_WriteInsideTheWindowIsLost :
    let s := { busyAt 0x020401#24 1#3 0x00#8 0#4 [ok 0] with outside := [.masterWrite 0x06#8 0xFF#8] }
    s.outside = [.masterWrite 0x06#8 0xFF#8] ∧ rmwWindow s = some 0x06#8 ∧ s.answers = ok 0 :: [] ∧
      (ok 0).ok = true ∧ ∀ c ∈ (ok 0).side, c.1 ≠ 0x06#8 :=
  ⟨rfl, by decide, rfl, rfl, fun _ h => absurd h List.not_mem_nil⟩

/-! ## Witnesses: partial states and post-states -/

theorem witness_FailedBegin (pre : List BusAnswer) (h : pre = [] ∨ pre = [ok 0, ok 0, ok 0, ok 0, ok 0]) :
    let s := idle 0x010000#24 (pre ++ [bad true false])
    s.busy = false ∧ s.outside = [] ∧ s.commands = 0x010000#24 :: [] ∧ s.answers = pre ++ bad true false :: [] ∧
      pre.length < 6 ∧ (∀ a ∈ pre, a.ok = true ∧ a.side = []) ∧ (bad true false).ok = false := by
  rcases h with rfl | rfl <;> decide
theorem witness_FailedAnalogWrite (pre : List BusAnswer)
    (h : pre = [] ∨ pre = [ok 0] ∨ pre = [ok 0, ok 0, ok 5]) :
    let s := idle 0x050308#24 (pre ++ [bad false false])
    (3#8).toNat < 16 ∧ s.busy = false ∧ s.outside = [] ∧ s.commands = packWord 0x05#8 3#8 8#8 :: [] ∧
      s.answers = pre ++ bad false false :: [] ∧ pre.length < 4 ∧ (∀ a ∈ pre, a.ok = true ∧ a.side = []) ∧
      (bad false false).ok = false := by
  rcases h with rfl | rfl | rfl <;> decide
theorem witness_FailedInterruptControl (pre : List BusAnswer)
    (h : pre = [] ∨ pre = [ok 1] ∨ pre = [ok 1, ok 0, ok 0]) :
    let s := idle (if true then 0x060000#24 else 0x070000#24) (pre ++ [bad false true])
    s.busy = false ∧ s.outside = [] ∧ s.commands = (if true then 0x060000#24 else 0x070000#24) :: [] ∧
      s.answers = pre ++ bad false true :: [] ∧ pre.length < 4 ∧ (∀ a ∈ pre, a.ok = true ∧ a.side = []) ∧
      (bad false true).ok = false := by
  rcases h with rfl | rfl | rfl <;> decide

/-- The reference environment of 95_test_vectors, with no faults. -/
def env : RefEnv := ⟨0x10#8, 0x00#8, [], 0, true⟩

theorem env_noFaults (n : Nat) : noFaults env n := fun _ _ _ h => List.not_mem_nil h

theorem witness_BeginPostState :
    let s := idle 0x010000#24 []
    s.busy = false ∧ s.outside = [] ∧ s.commands = [0x010000#24] ∧ noFaults env 6 := ⟨rfl, rfl, rfl, env_noFaults 6⟩
theorem witness_AnalogWritePostState :
    let s := idle (packWord 0x05#8 15#8 0#8) []
    (15#8).toNat < 16 ∧ s.busy = false ∧ s.outside = [] ∧ s.commands = [packWord 0x05#8 15#8 0#8] ∧
      noFaults env 4 := ⟨by decide, rfl, rfl, rfl, env_noFaults 4⟩
theorem witness_InterruptControlChangesOnlyBit3 (b : Bool) :
    let s := idle (if b then 0x060000#24 else 0x070000#24) []
    s.busy = false ∧ s.outside = [] ∧ s.commands = [if b then 0x060000#24 else 0x070000#24] ∧ noFaults env 4 :=
  ⟨rfl, rfl, rfl, env_noFaults 4⟩
theorem witness_PinModeChangesOnlyThePinsBit :
    let s := idle (packWord 0x02#8 8#8 PinMode.input.toArg) []
    (8#8).toNat < 16 ∧ s.busy = false ∧ s.outside = [] ∧ s.commands = [packWord 0x02#8 8#8 PinMode.input.toArg] ∧
      noFaults env 2 := ⟨by decide, rfl, rfl, rfl, env_noFaults 2⟩

/-! ## Witnesses: reset, the outside, whole-machine rules -/

theorem witness_ResetAbandons_read :
    let s := { busyAt 0x080000#24 1#3 0#8 0#4 [] with outside := [.reset true true] }
    s.outside = .reset true true :: [] ∧ s.busy = true ∧ busRequest s = some (.read s.chipAddr 0x01#8) :=
  ⟨rfl, rfl, rfl⟩
theorem witness_ResetAbandons_write :
    let s := { busyAt 0x010000#24 5#3 0#8 0#4 [] with outside := [.reset true false] }
    s.outside = .reset true false :: [] ∧ s.busy = true ∧ busRequest s = some (.write s.chipAddr 0x0E#8 0xFF#8) :=
  ⟨rfl, rfl, rfl⟩
theorem witness_ResetAbandons_between :
    let s := { busyAt 0x010000#24 6#3 0#8 0#4 [] with outside := [.reset false false] }
    s.outside = .reset false false :: [] ∧ s.busy = true ∧ busRequest s = none := ⟨rfl, rfl, rfl⟩
theorem witness_OutsideMovesLeaveTheBlockAlone :
    let s := { busyAt 0x050308#24 3#3 5#8 8#4 [] with outside := [.present 0x010000#24] }
    s.outside = .present 0x010000#24 :: [] ∧ OutsideMove.present 0x010000#24 ≠ .blockStep ∧
      ∀ l p, OutsideMove.present 0x010000#24 ≠ .reset l p := ⟨rfl, by decide, by decide⟩
theorem witness_ResponseIsWritten_completion :
    let s := busyAt 0x030F00#24 1#3 0x80#8 0#4 []
    s.outside = [] ∧ ∃ t, step s = .next t ∧ t.result ≠ s.result := ⟨rfl, _, rfl, by decide⟩
theorem witness_ResponseIsWritten_rejection :
    let s := idle 0x051001#24 []
    s.outside = [] ∧ ∃ t, step s = .next t ∧ t.rspValid = true ∧ s.rspValid = false := ⟨rfl, _, rfl, rfl, rfl⟩
theorem witness_NoCommandWritesTheChipAddress : ∃ t, step (idle 0x010000#24 []) = .next t := ⟨_, rfl⟩

/-- A BUSY state that meets the invariant: analogWrite 3, 8 before its last transaction. -/
theorem busy_inv (answers : List BusAnswer) : MachineInv (busyAt 0x050308#24 3#3 0x05#8 8#4 answers) where
  chip_wf := Memory.wf_set 0x11#8 0x05#8 (Memory.wf_set 0x02#8 0xFF#8 reset_chip_wf)
  chipAddr_fixed := rfl
  operation _ := by
    refine ⟨.analogWrite 3#8 8#8, ?_, ?_, fun _ => rfl⟩
    · show decode (packWord (opField 0x050308#24) (pinField 0x050308#24) (argField 0x050308#24)) = _
      decide
    · show (3#3).toNat ≤ 4
      decide
  no_response _ := rfl
  response := by
    refine ⟨?_, fun _ => rfl, fun h => Bool.noConfusion (h : false = true), ?_⟩
    · show (0#3).toNat ≤ 4
      decide
    · show (0#3).toNat ≤ 5
      decide

/-- A BUSY state that meets the invariant with only completion left, at the largest `step`. -/
theorem busy_inv_last : MachineInv (busyAt 0x010000#24 6#3 0#8 0#4 []) where
  chip_wf := Memory.wf_set 0x11#8 0x05#8 (Memory.wf_set 0x02#8 0xFF#8 reset_chip_wf)
  chipAddr_fixed := rfl
  operation _ := ⟨.begin, rfl, by decide, trivial⟩
  no_response _ := rfl
  response := ⟨by decide, fun _ => rfl, fun h => Bool.noConfusion (h : false = true), by decide⟩

theorem witness_StepCounterNeverWraps :
    let s := busyAt 0x010000#24 6#3 0#8 0#4 []
    MachineInv s ∧ s.outside = [] ∧ s.busy = true ∧ ∃ t, step s = .next t := ⟨busy_inv_last, rfl, rfl, _, rfl⟩
theorem witness_EveryStepKeepsTheInvariant :
    let s := busyAt 0x050308#24 3#3 0x05#8 8#4 [ok 0]
    MachineInv s ∧ ∃ t, step s = .next t := ⟨busy_inv _, _, rfl⟩
/-- The first and the last register, and an address between them that holds none. -/
theorem witness_RegisterFile :
    MachineInv (busyAt 0x050308#24 3#3 0x05#8 8#4 []) ∧ isMapped 0x00#8 = true ∧ isMapped 0x17#8 = true ∧
      isMapped 0x04#8 = false := ⟨busy_inv _, by decide, by decide, by decide⟩
theorem witness_NoStepStopsTheMachine : MachineInv (busyAt 0x050308#24 3#3 0x05#8 8#4 [bad true false]) := busy_inv _
theorem witness_EveryRunIsSafe : MachineInv (busyAt 0x050308#24 3#3 0x05#8 8#4 []) := busy_inv _

end Sys2Proof.Tests
end

/-! # Proofs of the state and step statements (10_state.md) -/

/-! ## The decoder: a word decodes exactly to the well-formed command it encodes (R101–R107) -/

namespace Sys2Proof

/-- What a word that passes the five checks of R106 satisfies, check by check. -/
theorem checks_passed {c : CmdWord} (h : acceptanceCheck c = none) :
    isOpcode (opField c) = true ∧
    (isPinOp (opField c) = true → validPin (pinField c) = true) ∧
    (isNoPinOp (opField c) = true → pinField c = 0#8 ∧ argField c = 0#8) ∧
    (opField c = 0x03#8 → argField c = 0#8) ∧
    (opField c = 0x02#8 → argField c = 0x00#8 ∨ argField c = 0x01#8) := by
  unfold acceptanceCheck at h
  split_ifs at h with hop hpin hzero hread hmode
  refine ⟨by simpa using hop, by simpa using hpin, by simpa using hzero, by simpa using hread, fun h2 => ?_⟩
  exact or_iff_not_imp_left.2 (by simpa [h2] using hmode)

/-- A word is refused exactly when an acceptance check applies; the selection itself refuses nothing more (R106). -/
theorem decode_eq_error_iff (c : CmdWord) (e : Cause) : decode c = .error e ↔ acceptanceCheck c = some e := by
  unfold decode
  cases h : acceptanceCheck c with
  | some e' => simp
  | none =>
    obtain ⟨hop, _⟩ := checks_passed h
    have hlegal : ∀ op : Byte, isOpcode op = true → op = 0x01#8 ∨ op = 0x02#8 ∨ op = 0x03#8 ∨ op = 0x04#8 ∨
        op = 0x05#8 ∨ op = 0x06#8 ∨ op = 0x07#8 ∨ op = 0x08#8 := by decide
    rcases hlegal _ hop with h' | h' | h' | h' | h' | h' | h' | h' <;> simp [selectCommand, h']

theorem acceptanceCheck_of_decode {c : CmdWord} {i : Instr} (h : decode c = .ok i) : acceptanceCheck c = none := by
  cases hc : acceptanceCheck c with
  | none => rfl
  | some e => simp [(decode_eq_error_iff c e).2 hc] at h

theorem selectCommand_of_decode {c : CmdWord} {i : Instr} (h : decode c = .ok i) : selectCommand c = .ok i := by
  simpa [decode, acceptanceCheck_of_decode h] using h

@[simp] theorem modeOf_toArg (mode : PinMode) : modeOf mode.toArg = mode := by cases mode <;> rfl

theorem toArg_modeOf {arg : Byte} (h : arg = 0x00#8 ∨ arg = 0x01#8) : (modeOf arg).toArg = arg := by
  rcases h with rfl | rfl <;> rfl

/-- A word that decodes is the word of a well-formed command, and of that command alone. -/
theorem wellFormed_and_encode_of_decode {c : CmdWord} {i : Instr} (h : decode c = .ok i) :
    i.wellFormed = true ∧ encode i = c := by
  obtain ⟨_, hpin, hzero, hread, hmode⟩ := checks_passed (acceptanceCheck_of_decode h)
  have hs := selectCommand_of_decode h
  have hpack : ∀ op pin arg, opField c = op → pinField c = pin → argField c = arg → packWord op pin arg = c := by
    rintro _ _ _ rfl rfl rfl
    exact packWord_fields c
  have hpinless : ∀ op, isNoPinOp op = true → opField c = op → packWord op 0#8 0#8 = c := by
    rintro _ hno rfl
    exact hpack _ _ _ rfl (hzero hno).1 (hzero hno).2
  unfold selectCommand at hs
  split_ifs at hs with h1 h2 h3 h4 h5 h6 h7 h8 <;> cases hs
  · exact ⟨rfl, hpinless _ rfl h1⟩
  · exact ⟨hpin (by rw [h2]; rfl), hpack _ _ _ h2 rfl (toArg_modeOf (hmode h2)).symm⟩
  · exact ⟨hpin (by rw [h3]; rfl), hpack _ _ _ h3 rfl (hread h3)⟩
  · exact ⟨hpin (by rw [h4]; rfl), hpack _ _ _ h4 rfl rfl⟩
  · exact ⟨hpin (by rw [h5]; rfl), hpack _ _ _ h5 rfl rfl⟩
  · exact ⟨rfl, hpinless _ rfl h6⟩
  · exact ⟨rfl, hpinless _ rfl h7⟩
  · exact ⟨rfl, hpinless _ rfl h8⟩

theorem encode_of_decode {c : CmdWord} {i : Instr} (h : decode c = .ok i) : encode i = c :=
  (wellFormed_and_encode_of_decode h).2

@[simp] theorem opField_encode (i : Instr) : opField (encode i) = i.opcode := by simp [encode]
@[simp] theorem pinField_encode (i : Instr) : pinField (encode i) = i.pinOperand := by simp [encode]
@[simp] theorem argField_encode (i : Instr) : argField (encode i) = i.argOperand := by simp [encode]

/-- The word of a well-formed command passes every check. -/
theorem acceptanceCheck_encode {i : Instr} (h : i.wellFormed = true) : acceptanceCheck (encode i) = none := by
  cases i with
  | pinMode pin mode =>
    have hv : validPin pin = true := h
    cases mode <;>
      simp [acceptanceCheck, Instr.opcode, Instr.pinOperand, Instr.argOperand, PinMode.toArg, isOpcode, isPinOp,
        isNoPinOp, hv]
  | digitalRead pin | digitalWrite pin value | analogWrite pin intensity =>
    have hv : validPin pin = true := h
    simp [acceptanceCheck, Instr.opcode, Instr.pinOperand, Instr.argOperand, isOpcode, isPinOp, isNoPinOp, hv]
  | begin | enableInterrupt | disableInterrupt | clearInterrupt => decide

/-- The word of a command with a pin of 16 or above fails the pin check. -/
theorem acceptanceCheck_encode_of_not_wellFormed {i : Instr} (h : i.wellFormed = false) :
    acceptanceCheck (encode i) = some (.invalidPin i.pinOperand) := by
  cases i with
  | pinMode pin mode | digitalRead pin | digitalWrite pin value | analogWrite pin intensity =>
    have hv : validPin pin = false := h
    simp [acceptanceCheck, Instr.opcode, Instr.pinOperand, isOpcode, isPinOp, hv]
  | begin | enableInterrupt | disableInterrupt | clearInterrupt => cases h

end Sys2Proof

/-! ## The step relation: one equation per case (R32–R35) -/

namespace Sys2Proof.Machine

variable {s t : State} {i : Instr}

theorem exec_of_idle (i : Instr) (hb : s.busy = false) : exec i s = .next (accept (encode i) s) := by
  simp [exec_eq_runOperation, runOperation, hb]

theorem exec_of_action {action : Byte → Nibble → TxAction} (hb : s.busy = true)
    (ha : (microcode i)[s.step.toNat]? = some action) : exec i s = transact (action s.rd s.v) s := by
  simp [exec_eq_runOperation, runOperation, hb, ha]

theorem exec_of_last (hb : s.busy = true) (hk : s.step.toNat = transactionCount i) :
    exec i s = .next (complete (resultOf i s.rd) s) := by
  have hk : s.step.toNat = (microcode i).length := hk
  simp [exec_eq_runOperation, runOperation, hb, hk]

theorem transact_of_unanswered {act : TxAction} (hm : isMapped act.tx.addr = true) (ha : s.answers = []) :
    transact act s = .next s := by
  simp [transact, hm, ha]

theorem transact_of_ok {act : TxAction} {ans : BusAnswer} {rest : List BusAnswer}
    (hm : isMapped act.tx.addr = true) (ha : s.answers = ans :: rest) (hok : ans.ok = true) :
    transact act s = .next (advance act ans (answered act ans rest s)) := by
  simp [transact, hm, ha, hok]

theorem transact_of_failed {act : TxAction} {ans : BusAnswer} {rest : List BusAnswer}
    (hm : isMapped act.tx.addr = true) (ha : s.answers = ans :: rest) (hok : ans.ok = false) :
    transact act s = .next (raise (.busFail s.step) (answered act ans rest s)) := by
  simp [transact, hm, ha, hok]

theorem action_mapped {action : Byte → Nibble → TxAction} {k : Nat} (ha : (microcode i)[k]? = some action)
    (rd : Byte) (v : Nibble) : isMapped (action rd v).tx.addr = true :=
  microcode_mapped i rd v action (List.mem_of_getElem? ha)

theorem blockTurn_of_busy (hb : s.busy = true) (hd : decode (latchedWord s) = .ok i) : blockTurn s = exec i s := by
  simp [blockTurn, hb, hd]

theorem blockTurn_of_waiting (hb : s.busy = false) (hc : s.commands = []) : blockTurn s = .next s := by
  simp [blockTurn, State.cmd, hb, hc]

/-- The IDLE block accepts the word on its command port: the decoded command's own acceptance is that of the word. -/
theorem blockTurn_of_presented {c : CmdWord} {cs : List CmdWord} (hb : s.busy = false) (hc : s.commands = c :: cs) :
    blockTurn s = .next (accept c s) := by
  cases hd : decode c with
  | ok i => simp [blockTurn, State.cmd, hb, hc, hd, exec_of_idle i hb, encode_of_decode hd]
  | error e => simp [blockTurn, State.cmd, hb, hc, hd, accept, (decode_eq_error_iff c e).1 hd]

theorem accept_of_error {c : CmdWord} {e : Cause} (h : acceptanceCheck c = some e) (s : State) :
    accept c s = reject c e s := by
  simp [accept, h]

theorem accept_of_legal {c : CmdWord} (h : acceptanceCheck c = none) (s : State) :
    accept c s = startOperation (latchCommand c s) := by
  simp [accept, h]

/-- An outside yield hands the turn to the block. -/
theorem step_of_yield {rest : List OutsideMove} (h : s.outside = .blockStep :: rest) :
    step s = blockTurn { s with outside := rest } := by
  simp [step, turn, h]

/-- Any other move of the outside happens alone. -/
theorem step_of_move {m : OutsideMove} {rest : List OutsideMove} (h : s.outside = m :: rest) (hm : m ≠ .blockStep) :
    step s = .next (outsideMove m { s with outside := rest }) := by
  cases m <;> simp_all [step, turn]

@[simp] theorem latchedWord_start (c : CmdWord) (s : State) : latchedWord (startOperation (latchCommand c s)) = c :=
  packWord_fields c

/-- A rejected word names no transaction (R224). -/
theorem causeFailStep_of_check {c : CmdWord} {e : Cause} (h : acceptanceCheck c = some e) :
    causeFailStep e = 0#3 := by
  unfold acceptanceCheck at h
  split_ifs at h <;> cases h <;> rfl

/-! ## What the block's step can do -/

/-- One step of the BUSY block running the command `i` (R33–R35, R263). -/
inductive BusyMove (i : Instr) (s : State) : State → Prop
  | waits : s.answers = [] → BusyMove i s s
  | succeeds {action : Byte → Nibble → TxAction} {ans : BusAnswer} {rest : List BusAnswer} :
      (microcode i)[s.step.toNat]? = some action → s.answers = ans :: rest → ans.ok = true →
      BusyMove i s (advance (action s.rd s.v) ans (answered (action s.rd s.v) ans rest s))
  | fails {action : Byte → Nibble → TxAction} {ans : BusAnswer} {rest : List BusAnswer} :
      (microcode i)[s.step.toNat]? = some action → s.answers = ans :: rest → ans.ok = false →
      BusyMove i s (raise (.busFail s.step) (answered (action s.rd s.v) ans rest s))
  | completes : s.step.toNat = transactionCount i → BusyMove i s (complete (resultOf i s.rd) s)

/-- One step of the block (R32–R35, R253). -/
inductive BlockMove (s : State) : State → Prop
  | waits : s.busy = false → s.commands = [] → BlockMove s s
  | rejects {c : CmdWord} {cs : List CmdWord} {e : Cause} :
      s.busy = false → s.commands = c :: cs → decode c = .error e → BlockMove s (reject c e s)
  | starts {c : CmdWord} {cs : List CmdWord} {i : Instr} :
      s.busy = false → s.commands = c :: cs → decode c = .ok i → BlockMove s (startOperation (latchCommand c s))
  | runs {i : Instr} {t : State} :
      s.busy = true → decode (latchedWord s) = .ok i → BusyMove i s t → BlockMove s t

theorem busyMove_of_exec (hb : s.busy = true) (h : exec i s = .next t) : BusyMove i s t := by
  rw [exec_eq_runOperation] at h
  rcases runOperation_next_cases h with ⟨hidle, _⟩ | ⟨_, action, ha, ht⟩ | ⟨_, hk, rfl⟩
  · simp [hb] at hidle
  · rcases transact_next_cases ht with ⟨hans, rfl⟩ | ⟨ans, rest, hans, hok, rfl⟩ | ⟨ans, rest, hans, hok, rfl⟩
    · exact .waits hans
    · exact .succeeds ha hans hok
    · exact .fails ha hans hok
  · exact .completes hk

theorem blockMove_of_blockTurn (h : blockTurn s = .next t) : BlockMove s t := by
  cases hb : s.busy with
  | true =>
    rcases blockTurn_next_cases h with ⟨_, i, hi, hx⟩ | ⟨hidle, _⟩ | ⟨hidle, _⟩ | ⟨hidle, _⟩
    · exact .runs hb hi (busyMove_of_exec hb hx)
    all_goals simp [hb] at hidle
  | false =>
    cases hc : s.commands with
    | nil =>
      cases (blockTurn_of_waiting hb hc).symm.trans h
      exact .waits hb hc
    | cons c cs =>
      cases (blockTurn_of_presented hb hc).symm.trans h
      cases hd : decode c with
      | ok i => exact accept_of_legal (acceptanceCheck_of_decode hd) s ▸ .starts hb hc hd
      | error e => exact accept_of_error ((decode_eq_error_iff c e).1 hd) s ▸ .rejects hb hc hd

theorem blockMove_of_step (ho : s.outside = []) (h : step s = .next t) : BlockMove s t :=
  blockMove_of_blockTurn (step_of_alone ho ▸ h)

/-! ## The operation rules -/

theorem transactionCount_le (i : Instr) : transactionCount i ≤ 6 := by
  cases i <;> exact Nat.le_of_ble_eq_true rfl

theorem lt_transactionCount {action : Byte → Nibble → TxAction} {k : Nat} (h : (microcode i)[k]? = some action) :
    k < transactionCount i :=
  (List.getElem?_eq_some_iff.1 h).1

/-- A transaction's index is at most 5, so `step + 1` does not wrap (R27). -/
theorem step_add_one_toNat {action : Byte → Nibble → TxAction} (h : (microcode i)[s.step.toNat]? = some action) :
    (s.step + 1#3).toNat = s.step.toNat + 1 := by
  have hlt := lt_transactionCount h
  have hle := transactionCount_le i
  rw [BitVec.toNat_add]
  exact Nat.mod_eq_of_lt (by simp only [BitVec.toNat_ofNat]; omega)

/-- The effective intensity of a command that has one (R172, R173). -/
def effectiveIntensity : Instr → Option Nibble
  | .analogWrite _ x => some (phaseSelect (clamp x)).2
  | .digitalWrite _ b => some (phaseSelect (clamp (dwriteMap b))).2
  | _ => none

/-- `v` is latched by transaction 0 of analogWrite and digitalWrite, and by no other. -/
theorem latchV_of_action {action : Byte → Nibble → TxAction} {k : Nat} (h : (microcode i)[k]? = some action)
    (rd : Byte) (v : Nibble) : (action rd v).latchV = if k = 0 then effectiveIntensity i else none := by
  have hk := lt_transactionCount h
  have hanalog : ∀ p x, (analogWriteCode p x)[k]? = some action →
      (action rd v).latchV = if k = 0 then some (phaseSelect (clamp x)).2 else none := by
    intro p x h
    have hk : k < 4 := (List.getElem?_eq_some_iff.1 h).1
    interval_cases k <;> cases h <;> rfl
  have hinterrupt : ∀ f ∈ enableInterruptCode ++ disableInterruptCode, (f rd v).latchV = none := by
    simp [enableInterruptCode, disableInterruptCode, writeInte, ackReads]
  have hnone : (∀ f ∈ microcode i, (f rd v).latchV = none) → effectiveIntensity i = none →
      (action rd v).latchV = if k = 0 then effectiveIntensity i else none := by
    intro hall he
    simp [he, hall action (List.mem_of_getElem? h)]
  cases i with
  | analogWrite pin x => exact hanalog _ _ h
  | digitalWrite pin b => exact hanalog _ _ h
  | begin => exact hnone (by simp [microcode, beginCode]) rfl
  | pinMode pin mode => exact hnone (by simp [microcode, pinModeCode]) rfl
  | digitalRead pin => exact hnone (by simp [microcode, digitalReadCode]) rfl
  | enableInterrupt => exact hnone (fun f hf => hinterrupt f (List.mem_append_left _ hf)) rfl
  | disableInterrupt => exact hnone (fun f hf => hinterrupt f (List.mem_append_right _ hf)) rfl
  | clearInterrupt => exact hnone (by simp [microcode, clearInterruptCode, ackReads]) rfl

/-! ## The invariant -/

theorem operationCovered_iff (s : State) : operationCovered s ↔
    ∃ i, decode (latchedWord s) = .ok i ∧ s.step.toNat ≤ transactionCount i ∧
      (s.step ≠ 0#3 → ∀ w, effectiveIntensity i = some w → s.v = w) := by
  unfold operationCovered
  refine exists_congr fun i => ?_
  cases i <;> simp [effectiveIntensity]

/-- Once transaction 0 has succeeded, `v` is the effective intensity, and later transactions keep it. -/
theorem v_after_success {action : Byte → Nibble → TxAction} {w : Nibble}
    (ha : (microcode i)[s.step.toNat]? = some action) (hw : effectiveIntensity i = some w)
    (hv : s.step ≠ 0#3 → s.v = w) : (action s.rd s.v).latchV.getD s.v = w := by
  rw [latchV_of_action ha]
  by_cases h0 : s.step = 0#3
  · simp [h0, hw]
  · have hn : s.step.toNat ≠ 0 := fun h => h0 (BitVec.eq_of_toNat_eq (by simpa using h))
    simp [hn, hv h0]

theorem responseCovered_raise {e : Cause} (s : State) (he : (causeFailStep e).toNat ≤ 5) :
    responseCovered (raise e s) := by
  cases e <;> simp_all [responseCovered, causeCode, causeFailStep]

theorem responseCovered_complete (b : Bool) (s : State) : responseCovered (complete b s) := by
  simp [responseCovered, statusOk]

/-- A BUSY step keeps the invariant. -/
theorem machineInv_busyMove (hs : MachineInv s) (hb : s.busy = true) (hd : decode (latchedWord s) = .ok i)
    (h : BusyMove i s t) : MachineInv t := by
  obtain ⟨hchip, haddr, hop, hrsp, hresp⟩ := hs
  cases h with
  | waits => exact ⟨hchip, haddr, hop, hrsp, hresp⟩
  | completes => exact ⟨hchip, haddr, nofun, nofun, responseCovered_complete _ s⟩
  | fails ha =>
    have hle : s.step.toNat ≤ 5 := by
      have := lt_transactionCount ha
      have := transactionCount_le i
      omega
    exact ⟨chipAfter_wf _ _ hchip, haddr, nofun, nofun, responseCovered_raise _ hle⟩
  | succeeds ha =>
    obtain ⟨i', hd', _, hv⟩ := (operationCovered_iff s).1 (hop hb)
    cases hd.symm.trans hd'
    refine ⟨chipAfter_wf _ _ hchip, haddr, fun _ => (operationCovered_iff _).2 ⟨i, hd, ?_, ?_⟩, hrsp, hresp⟩
    · simp only [advance_step, answered_step, step_add_one_toNat ha]
      exact lt_transactionCount ha
    · exact fun _ w hw => v_after_success ha hw fun h0 => hv h0 w hw

/-- The block's step keeps the invariant. -/
theorem machineInv_blockMove (hs : MachineInv s) (h : BlockMove s t) : MachineInv t := by
  cases h with
  | waits => exact hs
  | @rejects c cs e _ _ he =>
    have hk : (causeFailStep e).toNat ≤ 5 := by simp [causeFailStep_of_check ((decode_eq_error_iff c e).1 he)]
    exact ⟨hs.chip_wf, hs.chipAddr_fixed, nofun, nofun, responseCovered_raise _ hk⟩
  | @starts c cs i hb hc hd =>
    refine ⟨hs.chip_wf, hs.chipAddr_fixed, fun _ => (operationCovered_iff _).2 ⟨i, ?_, ?_, ?_⟩, fun _ => rfl,
      hs.response⟩
    · simpa using hd
    · simp
    · exact fun h0 => absurd rfl h0
  | runs hb hd hm => exact machineInv_busyMove hs hb hd hm

/-- The invariant speaks neither of the schedule nor of the words and answers to come. -/
theorem machineInv_outside (hs : MachineInv s) (o : List OutsideMove) : MachineInv { s with outside := o } :=
  ⟨hs.chip_wf, hs.chipAddr_fixed, hs.operation, hs.no_response, hs.response⟩

theorem abandonInFlight_chip_wf (latched pend : Bool) (hs : s.chip.wf = true) :
    (abandonInFlight latched pend s).chip.wf = true := by
  unfold abandonInFlight
  split
  · exact chipAfter_wf _ _ hs
  · exact hs

/-- A move of the outside, a reset included, keeps the invariant. -/
theorem machineInv_outsideMove (hs : MachineInv s) (m : OutsideMove) : MachineInv (outsideMove m s) := by
  obtain ⟨hchip, haddr, hop, hrsp, hresp⟩ := hs
  cases m with
  | reset latched pend =>
    exact ⟨abandonInFlight_chip_wf latched pend hchip, rfl, nofun, nofun, by simp [outsideMove, responseCovered]⟩
  | registerDraw a v | masterWrite a v => exact ⟨Memory.wf_set a v hchip, haddr, hop, hrsp, hresp⟩
  | blockStep | present c | answer a | drive dpin dph | pendingDraw b => exact ⟨hchip, haddr, hop, hrsp, hresp⟩

/-- Settles O57: the block's moves and the outside's moves each keep the invariant. -/
theorem everyStepKeepsTheInvariant : Obligations.EveryStepKeepsTheInvariant := by
  intro s t hs h
  rcases step_next_cases h with ⟨_, h⟩ | ⟨rest, _, h⟩ | ⟨m, rest, _, _, rfl⟩
  · exact machineInv_blockMove hs (blockMove_of_blockTurn h)
  · exact machineInv_blockMove (machineInv_outside hs rest) (blockMove_of_blockTurn h)
  · exact machineInv_outsideMove (machineInv_outside hs rest) m

end Sys2Proof.Machine

/-! ## Acceptance, turns and the outside (R20, R32, R106) -/

namespace Sys2Proof.Machine

variable {s t : State} {i : Instr}

theorem currentAction_of_idle (hb : s.busy = false) : currentAction s = none := by
  simp [currentAction, hb]

theorem busRequest_of_idle (hb : s.busy = false) : busRequest s = none := by
  simp [busRequest, currentAction_of_idle hb]

/-- The IDLE block whose turn it is accepts the word on its command port. -/
theorem step_of_presented {c : CmdWord} {cs : List CmdWord} (ho : s.outside = []) (hb : s.busy = false)
    (hc : s.commands = c :: cs) : step s = .next (accept c s) :=
  (step_of_alone ho).trans (blockTurn_of_presented hb hc)

section AcceptanceChecks

variable {op pin arg : Byte}

/-! R106 on the word {op, pin, arg}, one lemma per check in its order. -/

theorem check_illegalOp (h : ¬(1 ≤ op.toNat ∧ op.toNat ≤ 8)) :
    acceptanceCheck (packWord op pin arg) = some (.illegalOp op) := by
  have hop : isOpcode op = false := by
    rw [Bool.eq_false_iff]
    simpa [isOpcode] using h
  simp [acceptanceCheck, hop]

theorem check_invalidPin (hop : op ∈ [0x02#8, 0x03#8, 0x04#8, 0x05#8]) (hp : 16 ≤ pin.toNat) :
    acceptanceCheck (packWord op pin arg) = some (.invalidPin pin) := by
  obtain ⟨hlegal, hpinop⟩ : isOpcode op = true ∧ isPinOp op = true := by
    revert op
    decide
  simp [acceptanceCheck, hlegal, hpinop, validPin, hp]

theorem check_pinless (hop : op ∈ [0x01#8, 0x06#8, 0x07#8, 0x08#8]) (hz : pin ≠ 0#8 ∨ arg ≠ 0#8) :
    acceptanceCheck (packWord op pin arg) = some (.illegalArg arg) := by
  obtain ⟨hlegal, hpinop, hno⟩ : isOpcode op = true ∧ isPinOp op = false ∧ isNoPinOp op = true := by
    revert op
    decide
  simp [acceptanceCheck, hlegal, hpinop, hno, hz]

theorem check_readArg (hp : pin.toNat < 16) (ha : arg ≠ 0#8) :
    acceptanceCheck (packWord 0x03#8 pin arg) = some (.illegalArg arg) := by
  simp [acceptanceCheck, isOpcode, isPinOp, isNoPinOp, validPin, hp, ha]

theorem check_mode (hp : pin.toNat < 16) (h0 : arg ≠ 0#8) (h1 : arg ≠ 1#8) :
    acceptanceCheck (packWord 0x02#8 pin arg) = some (.illegalArg arg) := by
  simp [acceptanceCheck, isOpcode, isPinOp, isNoPinOp, validPin, hp, h0, h1]

theorem check_legal
    (h : (op ∈ [0x01#8, 0x06#8, 0x07#8, 0x08#8] ∧ pin = 0#8 ∧ arg = 0#8) ∨
      (op = 0x03#8 ∧ pin.toNat < 16 ∧ arg = 0#8) ∨
      (op = 0x02#8 ∧ pin.toNat < 16 ∧ (arg = 0#8 ∨ arg = 1#8)) ∨
      (op ∈ [0x04#8, 0x05#8] ∧ pin.toNat < 16)) :
    acceptanceCheck (packWord op pin arg) = none := by
  rcases h with ⟨hop, rfl, rfl⟩ | ⟨rfl, hp, rfl⟩ | ⟨rfl, hp, ha⟩ | ⟨hop, hp⟩
  · revert op
    decide
  · simp [acceptanceCheck, isOpcode, isPinOp, isNoPinOp, validPin, hp]
  · rcases ha with rfl | rfl <;> simp [acceptanceCheck, isOpcode, isPinOp, isNoPinOp, validPin, hp]
  · obtain ⟨hlegal, hno, h3, h2⟩ : isOpcode op = true ∧ isNoPinOp op = false ∧ op ≠ 0x03#8 ∧ op ≠ 0x02#8 := by
      revert op
      decide
    simp [acceptanceCheck, hlegal, hno, h3, h2, validPin, hp]

end AcceptanceChecks

/-- Settles O6: the step is the acceptance of the word, and each clause is one outcome of the checks. -/
theorem acceptanceFollowsTheChecksInOrder : Obligations.AcceptanceFollowsTheChecksInOrder := by
  intro s op pin arg cs ho hb hc latched rejected
  have hlatch : latchCommand (packWord op pin arg) s = latched := by
    simp [latchCommand, latched, hc]
  have hreject : ∀ e, causeFailStep e = 0#3 → acceptanceCheck (packWord op pin arg) = some e →
      step s = .next (rejected (causeCode e)) := by
    intro e he h
    rw [step_of_presented ho hb hc, accept_of_error h, reject, hlatch, raise, he]
    simp [rejected, latched, hb]
  refine ⟨busRequest_of_idle hb, fun code => busRequest_of_idle hb, ?_, ?_, ?_, ?_, ?_, ?_⟩
  · exact fun h => hreject _ rfl (check_illegalOp h)
  · exact fun hop hp => hreject _ rfl (check_invalidPin hop hp)
  · exact fun hop hz => hreject _ rfl (check_pinless hop hz)
  · rintro rfl hp ha
    exact hreject _ rfl (check_readArg hp ha)
  · rintro rfl hp h0 h1
    exact hreject _ rfl (check_mode hp h0 h1)
  · intro h
    rw [step_of_presented ho hb hc, accept_of_legal (check_legal h), hlatch]
    rfl

/-- Settles O7: the word of a well-formed command passes every check. -/
theorem everyWellFormedCommandIsAccepted : Obligations.EveryWellFormedCommandIsAccepted := by
  intro i s hw hb
  rw [exec_of_idle i hb, accept_of_legal (acceptanceCheck_encode hw)]
  simp [startOperation, latchCommand]

/-- Settles O8: the word of a command with a pin of 16 or above fails the pin check. -/
theorem illFormedCommandIsRejected : Obligations.IllFormedCommandIsRejected := by
  intro i s hw hb
  rw [exec_of_idle i hb, accept_of_error (acceptanceCheck_encode_of_not_wellFormed hw)]
  simp [reject, raise, latchCommand, causeCode, causeFailStep, hb]

/-- Settles O9: the block's turn runs the decoded command, and a scheduled yield only uses itself up. -/
theorem stepRunsTheDecodedCommand : Obligations.StepRunsTheDecodedCommand := by
  have hidle : ∀ {s : State} {c : CmdWord} {cs : List CmdWord} {i : Instr}, s.busy = false → s.commands = c :: cs →
      decode c = .ok i → blockTurn s = exec i s := by
    intro s c cs i hb hc hd
    rw [blockTurn_of_presented hb hc, exec_of_idle i hb, encode_of_decode hd]
  refine ⟨?_, ?_, ?_, ?_, ?_, ?_⟩
  · exact fun s c cs i ho hb hc hd => (step_of_alone ho).trans (hidle hb hc hd)
  · exact fun s i ho hb hd => (step_of_alone ho).trans (blockTurn_of_busy hb hd)
  · exact fun s rest i ho hb hd => (step_of_yield ho).trans (blockTurn_of_busy hb hd)
  · intro s rest c cs ho hb hc
    refine ⟨fun i hd => (step_of_yield ho).trans (hidle hb hc hd), fun e he => ?_⟩
    have hcheck := (decode_eq_error_iff c e).1 he
    rw [step_of_yield ho, blockTurn_of_presented (s := { s with outside := rest }) hb hc, accept_of_error hcheck]
    simp [reject, raise, latchCommand, causeFailStep_of_check hcheck, hb, hc]
  · exact fun s rest ho hb hc => (step_of_yield ho).trans (blockTurn_of_waiting hb hc)
  · intro s nbits w i hw
    have hd : decode (BitVec.ofNat 24 (w % 2 ^ nbits)) = .ok i := by
      unfold decodeTableWord at hw
      split at hw
      · split at hw
        · next hd => exact hd.trans (congrArg _ (Option.some.inj hw))
        · cases hw
      · cases hw
    exact (step_of_alone rfl).trans (hidle rfl rfl hd)

theorem blockTurn_of_illegal {e : Cause} (hb : s.busy = true) (hd : decode (latchedWord s) = .error e) :
    blockTurn s = .fault .noOperation := by
  simp [blockTurn, hb, hd]

theorem exec_of_beyond (hb : s.busy = true) (ha : (microcode i)[s.step.toNat]? = none)
    (hk : s.step.toNat ≠ transactionCount i) : exec i s = .fault .stepBeyondOperation := by
  have hk : s.step.toNat ≠ (microcode i).length := hk
  simp [exec_eq_runOperation, runOperation, hb, ha, hk]

/-! The block's step neither reads nor changes the schedule of the outside. -/

/-- The state with the moves `o` scheduled. -/
def reschedule (o : List OutsideMove) (s : State) : State := { s with outside := o }

/-- An outcome with the moves `o` still scheduled in its next state. -/
def withSchedule (o : List OutsideMove) :
    Host.Outcome State Fault Refusal → Host.Outcome State Fault Refusal
  | .next t => .next (reschedule o t)
  | .fault f => .fault f
  | .refused r => .refused r

theorem transact_withSchedule (act : TxAction) (s : State) (o : List OutsideMove) :
    transact act (reschedule o s) = withSchedule o (transact act s) := by
  cases hm : isMapped act.tx.addr with
  | false => simp [transact, hm, withSchedule]
  | true =>
    cases ha : s.answers with
    | nil =>
      rw [transact_of_unanswered hm ha]
      exact transact_of_unanswered (s := reschedule o s) hm ha
    | cons ans rest =>
      cases hok : ans.ok with
      | true =>
        rw [transact_of_ok hm ha hok]
        exact transact_of_ok (s := reschedule o s) hm ha hok
      | false =>
        rw [transact_of_failed hm ha hok]
        exact transact_of_failed (s := reschedule o s) hm ha hok

theorem accept_withSchedule (c : CmdWord) (s : State) (o : List OutsideMove) :
    accept c (reschedule o s) = reschedule o (accept c s) := by
  unfold accept
  cases acceptanceCheck c <;> rfl

theorem exec_withSchedule (i : Instr) (s : State) (o : List OutsideMove) :
    exec i (reschedule o s) = withSchedule o (exec i s) := by
  cases hb : s.busy with
  | false =>
    rw [exec_of_idle i hb, withSchedule, ← accept_withSchedule]
    exact exec_of_idle (s := reschedule o s) i hb
  | true =>
    cases ha : (microcode i)[s.step.toNat]? with
    | some action =>
      rw [exec_of_action hb ha, ← transact_withSchedule]
      exact exec_of_action (s := reschedule o s) hb ha
    | none =>
      by_cases hk : s.step.toNat = transactionCount i
      · rw [exec_of_last hb hk]
        exact exec_of_last (s := reschedule o s) hb hk
      · rw [exec_of_beyond hb ha hk]
        exact exec_of_beyond (s := reschedule o s) hb ha hk

theorem blockTurn_withSchedule (s : State) (o : List OutsideMove) :
    blockTurn (reschedule o s) = withSchedule o (blockTurn s) := by
  cases hb : s.busy with
  | true =>
    cases hd : decode (latchedWord s) with
    | ok i =>
      rw [blockTurn_of_busy hb hd, ← exec_withSchedule]
      exact blockTurn_of_busy (s := reschedule o s) hb hd
    | error e =>
      rw [blockTurn_of_illegal hb hd]
      exact blockTurn_of_illegal (s := reschedule o s) hb hd
  | false =>
    cases hc : s.commands with
    | nil =>
      rw [blockTurn_of_waiting hb hc]
      exact blockTurn_of_waiting (s := reschedule o s) hb hc
    | cons c cs =>
      rw [blockTurn_of_presented hb hc, withSchedule, ← accept_withSchedule]
      exact blockTurn_of_presented (s := reschedule o s) hb hc

/-- Settles O10: the block's turn commutes with the schedule. -/
theorem yieldedStepIsTheBlocksStep : Obligations.YieldedStepIsTheBlocksStep := by
  intro s rest ho
  have hstep : step s = withSchedule rest (step { s with outside := [] }) := by
    rw [step_of_yield ho, step_of_alone rfl]
    exact blockTurn_withSchedule { s with outside := [] } rest
  refine ⟨fun t h => ?_, fun f h => ?_, fun r h => ?_⟩ <;> rw [hstep, h] <;> rfl

/-- Settles O51: no such move writes a field the block's registers or its request are made of. -/
theorem outsideMovesLeaveTheBlockAlone : Obligations.OutsideMovesLeaveTheBlockAlone := by
  intro s m rest ho hm hreset
  refine ⟨_, step_of_move ho hm, ?_⟩
  cases m with
  | blockStep => exact absurd rfl hm
  | reset latched pend => exact absurd rfl (hreset latched pend)
  | present c | answer a | drive dpin dph | registerDraw a v | masterWrite a v | pendingDraw b =>
    exact ⟨rfl, rfl, rfl, rfl, rfl, rfl, rfl, rfl, rfl, rfl, rfl, rfl, rfl, rfl⟩

/-! ## The BUSY block (R33–R35) -/

theorem currentAction_of_busy {action : Byte → Nibble → TxAction} (hb : s.busy = true)
    (hd : decode (latchedWord s) = .ok i) (ha : (microcode i)[s.step.toNat]? = some action) :
    currentAction s = some (action s.rd s.v) := by
  simp [currentAction, hb, hd, ha]

/-- What stands behind an action in flight: the legal latched command and its rule's entry at `step`. -/
theorem exists_of_currentAction {act : TxAction} (h : currentAction s = some act) :
    s.busy = true ∧ ∃ i action, decode (latchedWord s) = .ok i ∧ (microcode i)[s.step.toNat]? = some action ∧
      act = action s.rd s.v := by
  unfold currentAction at h
  split at h
  · next hb =>
    split at h
    · next i hd =>
      split at h
      · next action ha => exact ⟨hb, i, action, hd, ha, (Option.some.inj h).symm⟩
      · cases h
    · cases h
  · cases h

theorem busRequest_of_currentAction {act : TxAction} (h : currentAction s = some act) :
    busRequest s = some (act.tx.request s.chipAddr) := by
  simp [busRequest, h]

theorem exists_currentAction_of_busRequest {r : BusRequest} (h : busRequest s = some r) :
    ∃ act, currentAction s = some act ∧ r = act.tx.request s.chipAddr := by
  unfold busRequest at h
  split at h
  · next act ha => exact ⟨act, ha, (Option.some.inj h).symm⟩
  · cases h

/-- The step of the block with a transaction in flight is that transaction, on a mapped register. -/
theorem step_of_currentAction {act : TxAction} (ho : s.outside = []) (h : currentAction s = some act) :
    step s = transact act s ∧ isMapped act.tx.addr = true := by
  obtain ⟨hb, i, action, hd, ha, rfl⟩ := exists_of_currentAction h
  rw [step_of_alone ho, blockTurn_of_busy hb hd, exec_of_action hb ha]
  exact ⟨rfl, action_mapped ha _ _⟩

/-- Settles O12: no move of the BUSY block touches the words or the latched command. -/
theorem busyBlockAcceptsNoCommand : Obligations.BusyBlockAcceptsNoCommand := by
  intro s t ho hb h
  have hready : s.cmdReady = false := by simp [State.cmdReady, hb]
  cases blockMove_of_step ho h with
  | waits hidle | rejects hidle | starts hidle => simp [hb] at hidle
  | runs _ _ hm => cases hm <;> exact ⟨hready, rfl, rfl, rfl, rfl⟩

/-- Settles O13: the three things a transaction can do. -/
theorem busyTransactionStep : Obligations.BusyTransactionStep := by
  intro s act ho h
  obtain ⟨hstep, hm⟩ := step_of_currentAction ho h
  refine ⟨busRequest_of_currentAction h, fun ha => ?_, fun ans rest ha hok => ?_, fun ans rest ha hok => ?_⟩
  · rw [hstep, transact_of_unanswered hm ha]
  · rw [hstep, transact_of_ok hm ha hok]
    rfl
  · rw [hstep, transact_of_failed hm ha hok]
    rfl

/-- Settles O14: past its last transaction the block completes, with the command's own result. -/
theorem completionWritesTheResponse : Obligations.CompletionWritesTheResponse := by
  intro s i ho hb hd hk
  rw [step_of_alone ho, blockTurn_of_busy hb hd, exec_of_last hb hk]
  cases i <;> rfl

/-- Settles O15: a failed transaction raises BUS_FAIL, and the IDLE block presents nothing. -/
theorem failedTransactionAborts : Obligations.FailedTransactionAborts := by
  intro s ans rest ho hr ha hok
  obtain ⟨r, hr⟩ := Option.ne_none_iff_exists'.1 hr
  obtain ⟨act, hact, _⟩ := exists_currentAction_of_busRequest hr
  obtain ⟨hstep, hm⟩ := step_of_currentAction ho hact
  exact ⟨_, hstep.trans (transact_of_failed hm ha hok), rfl, rfl, rfl, rfl, rfl, busRequest_of_idle rfl⟩

/-! ## What a step keeps (R26–R29, R40) -/

/-- The chip's side of an answer spares a register that the transaction does not store to and the answer's own changes
do not name. -/
theorem chipAfter_read_other {tx : Transaction} {ans : BusAnswer} {r : Nat} (m : Memory)
    (htx : ∀ a v, tx = .write a v → a.toNat ≠ r) (hside : ∀ c ∈ ans.side, c.1.toNat ≠ r) :
    (chipAfter tx ans m).read r = m.read r := by
  cases tx with
  | read a =>
    simp only [chipAfter]
    split
    · exact Memory.read_setAll_other m _ r hside
    · rfl
  | write a v =>
    have hset : (m.set a v).read r = m.read r := by
      rw [Memory.read_set, if_neg fun h => htx a v rfl h.2.symm]
    simp only [chipAfter]
    split_ifs
    · rw [Memory.read_setAll_other _ _ r hside, hset]
    · exact hset
    · rfl

/-- The second acknowledging read is a read of 0x01 (R203). -/
theorem acks_of_action {action : Byte → Nibble → TxAction} {k : Nat} (h : (microcode i)[k]? = some action)
    (rd : Byte) (v : Nibble) : (action rd v).acks = true → (action rd v).tx = .read in1 := by
  have hall : ∀ f ∈ microcode i, (f rd v).acks = true → (f rd v).tx = .read in1 := by
    cases i <;>
      simp [microcode, beginCode, pinModeCode, digitalReadCode, digitalWriteCode, analogWriteCode,
        enableInterruptCode, disableInterruptCode, clearInterruptCode, writeInte, ackReads]
  exact hall action (List.mem_of_getElem? h)

/-- A transaction that changes the pending state is a read; the new value is the draw, or the clearing by the
acknowledging read; a read of 0x0F only sets it (R203, R205). -/
theorem read_of_pendingAfter_ne {act : TxAction} {ans : BusAnswer} {p : Bool}
    (h : pendingAfter act ans p ≠ p) : ∃ a, act.tx = .read a ∧
      (pendingAfter act ans p = ans.pend ∨ (pendingAfter act ans p = false ∧ ans.ok = true ∧ act.acks = true)) ∧
      (a = 0x0F#8 → pendingAfter act ans p = true) := by
  cases htx : act.tx with
  | write a v => exact absurd (by simp [pendingAfter, htx]) h
  | read a =>
    refine ⟨a, rfl, ?_⟩
    simp only [pendingAfter, htx] at h ⊢
    split_ifs at h ⊢ with hin hack hcfg
    · refine ⟨.inr ⟨rfl, by simpa using hack⟩, ?_⟩
      rintro rfl
      exact absurd hin (by decide)
    · refine ⟨.inl rfl, ?_⟩
      rintro rfl
      exact absurd hin (by decide)
    · cases p <;> cases hp : ans.pend <;> simp_all
    · refine ⟨.inl rfl, ?_⟩
      rintro rfl
      exact absurd rfl hcfg

theorem readRegister_of_action {action : Byte → Nibble → TxAction} {a : Byte}
    (ha : (microcode i)[s.step.toNat]? = some action) (htx : (action s.rd s.v).tx = .read a) :
    readRegister i s = some a := by
  simp [readRegister, ha, htx]

theorem storedRegister_of_action {action : Byte → Nibble → TxAction} {a v : Byte}
    (ha : (microcode i)[s.step.toNat]? = some action) (htx : (action s.rd s.v).tx = .write a v) :
    storedRegister i s = some a := by
  simp [storedRegister, ha, htx]

/-- The environment's side of a transaction of the command `i`: what it changes of the pending state and the chip. -/
theorem answered_frame {action : Byte → Nibble → TxAction} {ans : BusAnswer} {rest : List BusAnswer}
    (ha : (microcode i)[s.step.toNat]? = some action) (hans : s.answers = ans :: rest) :
    let t := answered (action s.rd s.v) ans rest s
    (t.intPending ≠ s.intPending → ∃ a, readRegister i s = some a ∧ (a = 0x0F#8 → t.intPending = true)) ∧
    (∀ r : Nat, (∀ a, storedRegister i s = some a → a.toNat ≠ r) → sideSpares s r →
      t.chip.read r = s.chip.read r) := by
  refine ⟨fun hp => ?_, fun r hstore hside => ?_⟩
  · obtain ⟨a, htx, _, hset⟩ := read_of_pendingAfter_ne hp
    exact ⟨a, readRegister_of_action ha htx, hset⟩
  · exact chipAfter_read_other _ (fun a v htx => hstore a (storedRegister_of_action ha htx)) (hside ans rest hans)

/-- A successful transaction changes `rd` only if it is a read (R12.4, R13.4). -/
theorem read_of_rdAfter_ne {tx : Transaction} {ans : BusAnswer} {rd : Byte} (h : rdAfter tx ans rd ≠ rd) :
    ∃ a, tx = .read a := by
  cases tx with
  | read a => exact ⟨a, rfl⟩
  | write a v => exact absurd rfl h

/-- A successful transaction changes `v` only at step 0 of analogWrite and digitalWrite (R172). -/
theorem first_of_latchV_ne {action : Byte → Nibble → TxAction} (ha : (microcode i)[s.step.toNat]? = some action)
    (h : (action s.rd s.v).latchV.getD s.v ≠ s.v) :
    s.step = 0#3 ∧ ((∃ p x, i = .analogWrite p x) ∨ ∃ p b, i = .digitalWrite p b) := by
  rw [latchV_of_action ha] at h
  split at h
  · next h0 =>
    refine ⟨BitVec.eq_of_toNat_eq (by simpa using h0), ?_⟩
    cases i with
    | analogWrite p x => exact .inl ⟨p, x, rfl⟩
    | digitalWrite p b => exact .inr ⟨p, b, rfl⟩
    | begin | pinMode | digitalRead | enableInterrupt | disableInterrupt | clearInterrupt => exact absurd rfl h
  · exact absurd rfl h

/-- Settles O26: move by move of the BUSY block. -/
theorem frameOfABusyStep : Obligations.FrameOfABusyStep := by
  intro i s t hb h
  cases busyMove_of_exec hb h with
  | waits => simp
  | completes => simp
  | fails ha hans =>
    obtain ⟨hpend, hchip⟩ := answered_frame ha hans
    exact ⟨rfl, rfl, rfl, rfl, rfl, rfl, rfl, rfl, fun h => absurd rfl h, fun h => absurd rfl h, nofun, hpend, hchip⟩
  | succeeds ha hans =>
    obtain ⟨hpend, hchip⟩ := answered_frame ha hans
    refine ⟨rfl, rfl, rfl, rfl, rfl, rfl, rfl, rfl, fun hrd => ?_, fun hv => first_of_latchV_ne ha hv,
      fun _ => ⟨rfl, rfl, rfl, rfl⟩, hpend, hchip⟩
    obtain ⟨a, htx⟩ := read_of_rdAfter_ne hrd
    exact ⟨a, readRegister_of_action ha htx⟩

/-- Settles O39: only an answered transaction touches the pending state. -/
theorem pendingStateChangesOnlyByReads : Obligations.PendingStateChangesOnlyByReads := by
  intro s t ho h hp
  have hanswered : ∀ {i : Instr} {action : Byte → Nibble → TxAction} {ans : BusAnswer} {rest : List BusAnswer},
      s.busy = true → decode (latchedWord s) = .ok i → (microcode i)[s.step.toNat]? = some action →
      s.answers = ans :: rest → t.intPending = pendingAfter (action s.rd s.v) ans s.intPending →
      ∃ ans rest a, s.answers = ans :: rest ∧ busRequest s = some (.read s.chipAddr a) ∧
        (t.intPending = ans.pend ∨ (t.intPending = false ∧ a = 0x01#8 ∧ ans.ok = true)) ∧
        (a = 0x0F#8 → t.intPending = true) := by
    intro i action ans rest hb hd ha hans ht
    rw [ht] at hp ⊢
    obtain ⟨a, htx, hval, hset⟩ := read_of_pendingAfter_ne hp
    refine ⟨ans, rest, a, hans, ?_, hval.imp_right fun ⟨hclear, hok, hack⟩ => ⟨hclear, ?_, hok⟩, hset⟩
    · rw [busRequest_of_currentAction (currentAction_of_busy hb hd ha), htx]
      rfl
    · exact Transaction.read.inj (htx.symm.trans (acks_of_action ha _ _ hack))
  cases blockMove_of_step ho h with
  | waits | rejects | starts => exact absurd rfl hp
  | runs hb hd hm =>
    cases hm with
    | waits | completes => exact absurd rfl hp
    | succeeds ha hans | fails ha hans => exact hanswered hb hd ha hans rfl

/-- Settles O52: of the block's moves, rejection, abort and completion alone write a response. -/
theorem responseIsWrittenOnlyWhenACommandEnds : Obligations.ResponseIsWrittenOnlyWhenACommandEnds := by
  intro s t ho h hchange
  cases blockMove_of_step ho h with
  | waits => simp at hchange
  | starts => simp at hchange
  | rejects hb hc he => exact ⟨rfl, rfl, .inr ⟨_, _, _, hc, he⟩⟩
  | runs hb hd hm =>
    cases hm with
    | waits => simp at hchange
    | succeeds => simp at hchange
    | fails | completes => exact ⟨rfl, rfl, .inl hb⟩

/-- No move of the block writes `chip_addr` (R29). -/
theorem blockMove_chipAddr (h : BlockMove s t) : t.chipAddr = s.chipAddr := by
  cases h with
  | waits | rejects | starts => rfl
  | runs _ _ hm => cases hm <;> rfl

/-- Settles O53: neither the block's moves nor the outside's, a reset apart, write `chip_addr`. -/
theorem noCommandWritesTheChipAddress : Obligations.NoCommandWritesTheChipAddress := by
  intro s t h
  rcases step_next_cases h with ⟨_, h⟩ | ⟨rest, _, h⟩ | ⟨m, rest, ho, _, rfl⟩
  · exact .inl (blockMove_chipAddr (blockMove_of_blockTurn h))
  · exact .inl (blockMove_chipAddr (s := { s with outside := rest }) (blockMove_of_blockTurn h))
  · cases m with
    | reset latched pend => exact .inr ⟨latched, pend, rest, ho, rfl⟩
    | blockStep | present | answer | drive | registerDraw | masterWrite | pendingDraw => exact .inl rfl

/-- Settles O54: only a successful transaction moves `step`, and its index is at most 5. -/
theorem stepCounterNeverWraps : Obligations.StepCounterNeverWraps := by
  intro s t hs ho hb h
  obtain ⟨i, _, hle, _⟩ := (operationCovered_iff s).1 (hs.operation hb)
  refine ⟨hle.trans (transactionCount_le i), ?_⟩
  cases blockMove_of_step ho h with
  | waits hidle | rejects hidle | starts hidle => simp [hb] at hidle
  | runs _ _ hm =>
    cases hm with
    | waits | fails | completes => exact .inl rfl
    | succeeds ha => exact .inr (step_add_one_toNat ha)

/-- Reading a register file that lists a value for each of the addresses `l`. -/
theorem Memory.read_map (l : List Byte) (f : Nat → Byte) {a : Byte} (h : a ∈ l) :
    Memory.read (l.map fun b => (b.toNat, f b.toNat)) a.toNat = some (f a.toNat) := by
  induction l with
  | nil => cases h
  | cons b l ih =>
    simp only [List.map_cons, Memory.read]
    split_ifs with hab
    · rw [hab]
    · exact ih ((List.mem_cons.1 h).resolve_left fun hb => hab (congrArg _ hb))

/-- Settles O56: the canonical form lists exactly the mapped addresses. -/
theorem registerFileHoldsEighteenBytes : Obligations.RegisterFileHoldsEighteenBytes := by
  refine ⟨fun a ha => ?_, fun s r hs => ?_⟩
  · exact Memory.read_map mappedAddresses Config.chipAtStart (by simpa [isMapped] using ha)
  · rw [← Option.isSome_iff_exists, Memory.read_isSome, (Memory.wf_iff _).1 hs.chip_wf]
    rfl

/-! ## Safety -/

/-- The block of a state that meets the invariant has a next state. -/
theorem exists_blockTurn_of_inv (hs : MachineInv s) : ∃ t, blockTurn s = .next t := by
  cases hb : s.busy with
  | false =>
    cases hc : s.commands with
    | nil => exact ⟨_, blockTurn_of_waiting hb hc⟩
    | cons c cs => exact ⟨_, blockTurn_of_presented hb hc⟩
  | true =>
    obtain ⟨i, hd, hle, _⟩ := (operationCovered_iff s).1 (hs.operation hb)
    rw [blockTurn_of_busy hb hd]
    cases ha : (microcode i)[s.step.toNat]? with
    | some action =>
      rw [exec_of_action hb ha]
      exact transact_of_microcode i s ha
    | none => exact ⟨_, exec_of_last hb (le_antisymm hle (List.getElem?_eq_none_iff.1 ha))⟩

theorem exists_step_of_inv (hs : MachineInv s) : ∃ t, step s = .next t := by
  cases ho : s.outside with
  | nil => exact step_of_alone ho ▸ exists_blockTurn_of_inv hs
  | cons m rest =>
    by_cases hm : m = .blockStep
    · exact step_of_yield (hm ▸ ho) ▸ exists_blockTurn_of_inv (machineInv_outside hs rest)
    · exact ⟨_, step_of_move ho hm⟩

@[simp] theorem run_zero (s : State) : Sys2Proof.core.run 0 s = .next s := rfl

theorem run_of_step (h : step s = .next t) (n : Nat) : Sys2Proof.core.run (n + 1) s = Sys2Proof.core.run n t := by
  have h : Sys2Proof.core.step s = .next t := h
  simp [Host.Core.run, h]

/-- Settles O59: a step exists from the invariant, and keeps it, by induction on the run's length. -/
theorem everyRunIsSafe : Obligations.EveryRunIsSafe := by
  intro n
  induction n with
  | zero => exact fun s hs => ⟨s, rfl, hs⟩
  | succ n ih =>
    intro s hs
    obtain ⟨t, h⟩ := exists_step_of_inv hs
    rw [run_of_step h]
    exact ih t (everyStepKeepsTheInvariant s t hs h)

end Sys2Proof.Machine

/-! ## The read-modify-write windows (R41, R256) -/

namespace Sys2Proof.Machine

variable {s t : State} {i : Instr}

/-- Entries `k` and `k + 1` of an operation rule are a read and a write of the register `a`. -/
def IsRmwPair (code : Microcode) (k : Nat) (rd : Byte) (v : Nibble) (a : Byte) : Prop :=
  ∃ before now d, code[k]? = some before ∧ code[k + 1]? = some now ∧
    (before rd v).tx = .read a ∧ (now rd v).tx = .write a d

/-- The window is open exactly before the write of a pair. -/
theorem rmwWindow_eq_some_iff {a : Byte} (hb : s.busy = true) (hd : decode (latchedWord s) = .ok i) :
    rmwWindow s = some a ↔ ∃ k, s.step.toNat = k + 1 ∧ IsRmwPair (microcode i) k s.rd s.v a := by
  simp only [rmwWindow, hb, hd, if_true]
  cases hk : s.step.toNat with
  | zero => simp
  | succ k =>
    simp only [Nat.add_right_cancel_iff, exists_eq_left', IsRmwPair]
    cases (microcode i)[k]? with
    | none => simp
    | some before =>
      cases (microcode i)[k + 1]? with
      | none => simp
      | some now =>
        cases hbefore : (before s.rd s.v).tx with
        | write b w => simp [hbefore]
        | read b =>
          cases hnow : (now s.rd s.v).tx with
          | read c => simp [hbefore, hnow]
          | write c d =>
            have hsame : b = c ∧ b = a ↔ b = a ∧ c = a :=
              ⟨fun ⟨hbc, hba⟩ => ⟨hba, hbc ▸ hba⟩, fun ⟨hba, hca⟩ => ⟨hba.trans hca.symm, hba⟩⟩
            simpa [hbefore, hnow] using hsame

theorem exists_of_rmwWindow {a : Byte} (h : rmwWindow s = some a) :
    s.busy = true ∧ ∃ i, decode (latchedWord s) = .ok i := by
  unfold rmwWindow at h
  split at h
  · next hb =>
    split at h
    · next i hd => exact ⟨hb, i, hd⟩
    · cases h
  · cases h

section Pairs

variable {k : Nat} {rd : Byte} {v : Nibble} {a : Byte}

theorem isRmwPair_pinMode {p : PinIndex} {mode : PinMode} :
    IsRmwPair (pinModeCode p mode) k rd v a ↔ k = 0 ∧ a = configReg p := by
  rcases k with _ | k <;> simp [-exists_const, IsRmwPair, pinModeCode, eq_comm]

theorem isRmwPair_analogWrite {p : PinIndex} {x : Byte} :
    IsRmwPair (analogWriteCode p x) k rd v a ↔
      (k = 0 ∧ a = phaseReg p 0#1) ∨ (k = 2 ∧ a = intensityReg p) := by
  rcases k with _ | _ | _ | k <;> simp [-exists_const, IsRmwPair, analogWriteCode, eq_comm]

theorem isRmwPair_interrupt {b : Bool} :
    IsRmwPair (writeInte b ++ ackReads) k rd v a ↔ k = 0 ∧ a = 0x0F#8 := by
  rcases k with _ | _ | _ | k <;> simp [-exists_const, IsRmwPair, writeInte, ackReads, chipCfg, eq_comm]

theorem not_isRmwPair_begin : ¬ IsRmwPair beginCode k rd v a := by
  rcases k with _ | _ | _ | _ | _ | k <;> simp [-exists_const, IsRmwPair, beginCode]

theorem not_isRmwPair_digitalRead {p : PinIndex} : ¬ IsRmwPair (digitalReadCode p) k rd v a := by
  simp [-exists_const, IsRmwPair, digitalReadCode]

theorem not_isRmwPair_clearInterrupt : ¬ IsRmwPair clearInterruptCode k rd v a := by
  rcases k with _ | k <;> simp [-exists_const, IsRmwPair, clearInterruptCode, ackReads]

end Pairs

/-- Settles O40: the pairs of each operation rule. -/
theorem rmwWindowsOfEveryCommand : Obligations.RmwWindowsOfEveryCommand := by
  intro s i a hb hd
  have h1 : s.step = 1#3 ↔ s.step.toNat = 1 := BitVec.toNat_inj.symm
  have h3 : s.step = 3#3 ↔ s.step.toNat = 3 := BitVec.toNat_inj.symm
  rw [rmwWindow_eq_some_iff hb hd]
  cases i with
  | pinMode pin mode => simp [microcode, isRmwPair_pinMode, h1]
  | analogWrite pin x => simp [microcode, isRmwPair_analogWrite, h1, h3, and_or_left, exists_or]
  | digitalWrite pin b => simp [microcode, digitalWriteCode, isRmwPair_analogWrite, h1, h3, and_or_left, exists_or]
  | enableInterrupt => simp [microcode, enableInterruptCode, isRmwPair_interrupt, h1]
  | disableInterrupt => simp [microcode, disableInterruptCode, isRmwPair_interrupt, h1]
  | begin => simp [microcode, not_isRmwPair_begin]
  | digitalRead pin => simp [microcode, not_isRmwPair_digitalRead]
  | clearInterrupt => simp [microcode, not_isRmwPair_clearInterrupt]

/-- After the write of a pair no window is open: the entry before `step` is now that write. -/
theorem rmwWindow_advance {action : Byte → Nibble → TxAction} {ans : BusAnswer} {rest : List BusAnswer} {a d : Byte}
    (hb : s.busy = true) (hd : decode (latchedWord s) = .ok i) (ha : (microcode i)[s.step.toNat]? = some action)
    (h0 : s.step.toNat ≠ 0) (htx : (action s.rd s.v).tx = .write a d) :
    rmwWindow (advance (action s.rd s.v) ans (answered (action s.rd s.v) ans rest s)) = none := by
  have hv : (action s.rd s.v).latchV = none := by simp [latchV_of_action ha, h0]
  rw [Option.eq_none_iff_forall_ne_some]
  intro b hw
  obtain ⟨k, hk, before, now, d', hbefore, _, hread, _⟩ :=
    (rmwWindow_eq_some_iff (s := advance _ ans (answered _ ans rest s)) hb hd).1 hw
  simp only [advance_step, answered_step, step_add_one_toNat ha, Nat.add_right_cancel_iff] at hk
  subst hk
  cases ha.symm.trans hbefore
  simp [htx, hv, rdAfter] at hread

/-- Settles O41: the block's write comes last, with data that `rd` and `v` fixed before the other master's write. -/
theorem writeInsideTheWindowIsLost : Obligations.WriteInsideTheWindowIsLost := by
  intro s a w ans rest ho hw hans hok hside
  obtain ⟨hb, i, hd⟩ := exists_of_rmwWindow hw
  obtain ⟨k, hk, _, action, d, _, ha, _, htx⟩ := (rmwWindow_eq_some_iff hb hd).1 hw
  rw [← hk] at ha
  have hmapped : isMapped a = true := by simpa [htx, Transaction.addr] using action_mapped ha s.rd s.v
  have h0 : s.step.toNat ≠ 0 := by omega
  let s1 := outsideMove (.masterWrite a w) { s with outside := [] }
  have hmove : step s = .next s1 := step_of_move ho (by simp)
  have hact : currentAction s1 = some (action s.rd s.v) := currentAction_of_busy (s := s1) hb hd ha
  obtain ⟨hturn, hm⟩ := step_of_currentAction (s := s1) rfl hact
  refine ⟨d, _, ?_, (run_of_step hmove 1).trans (run_of_step (hturn.trans (transact_of_ok hm hans hok)) 0), ?_, ?_⟩
  · rw [busRequest_of_currentAction (currentAction_of_busy hb hd ha), htx]
    rfl
  · have hother : ∀ c ∈ ans.side, c.1.toNat ≠ a.toNat := fun c hc h => hside c hc (BitVec.eq_of_toNat_eq h)
    simp [chipAfter, htx, hok, Memory.read_setAll_other _ _ _ hother, Memory.read_set, hmapped]
  · exact rmwWindow_advance (s := s1) hb hd ha h0 htx

end Sys2Proof.Machine

/-! ## The whole-operation view (R31, R36) -/

namespace Sys2Proof.Machine

variable {s t : State} {i : Instr}

/-! ### Observing one step -/

theorem transcript_of_step (h : step s = .next t) (n : Nat) :
    transcript (n + 1) s = (transactionNow s).toList ++ transcript n t := by
  simp [transcript, h]

theorem transactionNow_of_answered {ans : BusAnswer} {rest : List BusAnswer} (ho : s.outside = [])
    (ha : s.answers = ans :: rest) : transactionNow s = busRequest s := by
  simp [transactionNow, ho, ha]

theorem transactionNow_of_no_request (ho : s.outside = []) (h : busRequest s = none) : transactionNow s = none := by
  cases ha : s.answers with
  | nil => simp [transactionNow, ho, ha]
  | cons ans rest => rw [transactionNow_of_answered ho ha, h]

theorem currentAction_of_last (hd : decode (latchedWord s) = .ok i)
    (ha : (microcode i)[s.step.toNat]? = none) : currentAction s = none := by
  simp [currentAction, hd, ha]

/-! ### No operation rule uses a latch that it has not set (R31) -/

/-- Run from the latches `rd`, `v` or from `rd'`, `v'`, the operation rule gives the same actions and the same result,
whatever is answered. -/
def LatchesAgree (result : Byte → Bool) : Microcode → Byte → Nibble → Byte → Nibble → Prop
  | [], rd, _, rd', _ => result rd = result rd'
  | action :: code, rd, v, rd', v' =>
    action rd v = action rd' v' ∧
      ∀ ans, LatchesAgree result code (rdAfter (action rd v).tx ans rd) ((action rd v).latchV.getD v)
        (rdAfter (action rd v).tx ans rd') ((action rd v).latchV.getD v')

theorem latchesAgree_start (i : Instr) (rd : Byte) (v : Nibble) (rd' : Byte) (v' : Nibble) :
    LatchesAgree (resultOf i) (microcode i) rd v rd' v' := by
  cases i with
  | begin => simp [microcode, beginCode, LatchesAgree, resultOf]
  | pinMode pin mode => simp [microcode, pinModeCode, LatchesAgree, rdAfter, resultOf]
  | digitalRead pin => simp [microcode, digitalReadCode, LatchesAgree, rdAfter]
  | digitalWrite pin b => simp [microcode, digitalWriteCode, analogWriteCode, LatchesAgree, rdAfter, resultOf]
  | analogWrite pin x => simp [microcode, analogWriteCode, LatchesAgree, rdAfter, resultOf]
  | enableInterrupt => simp [microcode, enableInterruptCode, writeInte, ackReads, LatchesAgree, rdAfter, resultOf]
  | disableInterrupt => simp [microcode, disableInterruptCode, writeInte, ackReads, LatchesAgree, rdAfter, resultOf]
  | clearInterrupt => simp [microcode, clearInterruptCode, ackReads, LatchesAgree, resultOf]

/-- The observation depends on the latches only as far as the operation rule does. -/
theorem observeFrom_congr {chip : ChipAddr} {result : Byte → Bool} {code : Microcode} {k : BitVec 3} {rd rd' : Byte}
    {v v' : Nibble} (h : LatchesAgree result code rd v rd' v') (answers : List BusAnswer) :
    observeFrom chip result code k rd v answers = observeFrom chip result code k rd' v' answers := by
  induction code generalizing k rd rd' v v' answers with
  | nil => exact congrArg (fun r => Observation.mk [] (some ⟨statusOk, r, 0#3⟩)) h
  | cons action code ih =>
    obtain ⟨hact, hlater⟩ := h
    cases answers with
    | nil => rfl
    | cons ans rest => simp only [observeFrom, ← hact, ih (hlater ans) rest]

/-! ### The steps of a command give its observation -/

/-- `n` steps from `s` give the observation `o`, with the words `cs` left on the command port. -/
def Realises (n : Nat) (cs : List CmdWord) (s : State) (o : Observation) : Prop :=
  ∃ t, Sys2Proof.core.run n s = .next t ∧ transcript n s = o.requests ∧ responsePort t = o.response ∧
    t.commands = cs ∧ (o.response = none → t.busy = true ∧ t.answers = []) ∧ (o.response ≠ none → t.busy = false)

/-- A step that completes the transaction `r`, if any, before a state that realises the later observation. -/
theorem Realises.of_step {n : Nat} {cs : List CmdWord} {o : Observation} {r : Option BusRequest}
    (h : step s = .next t) (hr : transactionNow s = r) (hlater : Realises n cs t o) :
    Realises (n + 1) cs s ⟨r.toList ++ o.requests, o.response⟩ := by
  obtain ⟨u, hrun, htr, hrest⟩ := hlater
  exact ⟨u, (run_of_step h n).trans hrun, by rw [transcript_of_step h, hr, htr], hrest⟩

/-- A state whose command has ended realises its response in no step. -/
theorem realises_ended (hv : s.rspValid = true) (hb : s.busy = false) :
    Realises 0 s.commands s ⟨[], some ⟨s.status, s.result, s.failStep⟩⟩ :=
  ⟨s, rfl, rfl, by simp [responsePort, hv], rfl, nofun, fun _ => hb⟩

theorem causeCode_ne_ok (e : Cause) : causeCode e ≠ statusOk := by
  cases e <;> simp [causeCode, statusOk]

/-- What stands at `step` when the rest of the operation rule is `action :: code`. -/
theorem getElem?_of_drop_eq_cons {α : Type} {l code : List α} {a : α} {k : Nat} (h : l.drop k = a :: code) :
    l[k]? = some a ∧ l.drop (k + 1) = code := by
  refine ⟨?_, ?_⟩
  · rw [← List.head?_drop, h, List.head?_cons]
  · rw [← List.tail_drop, h, List.tail_cons]

/-- From the transaction of index `step` on, the steps of the BUSY block give the rest of the operation's observation. -/
theorem exists_realises_observeFrom (code : Microcode) (hcode : (microcode i).drop s.step.toNat = code)
    (ho : s.outside = []) (hb : s.busy = true) (hd : decode (latchedWord s) = .ok i) (hv : s.rspValid = false)
    (hk : s.step.toNat ≤ transactionCount i) :
    let o := observeFrom s.chipAddr (resultOf i) code s.step s.rd s.v s.answers
    ∃ n, o.steps = n + 1 ∧ Realises n s.commands s o := by
  induction code generalizing s with
  | nil =>
    have hlast : (microcode i).length ≤ s.step.toNat := List.drop_eq_nil_iff.1 hcode
    have hstep : step s = .next (complete (resultOf i s.rd) s) := by
      rw [step_of_alone ho, blockTurn_of_busy hb hd, exec_of_last hb (le_antisymm hk hlast)]
    have hnow : transactionNow s = none := transactionNow_of_no_request ho (by
      simp [busRequest, currentAction_of_last hd (List.getElem?_eq_none_iff.2 hlast)])
    exact ⟨1, rfl, .of_step hstep hnow (realises_ended rfl rfl)⟩
  | cons action code ih =>
    obtain ⟨ha, hcode⟩ := getElem?_of_drop_eq_cons hcode
    have hact := currentAction_of_busy hb hd ha
    obtain ⟨hstep, hm⟩ := step_of_currentAction ho hact
    cases hans : s.answers with
    | nil => exact ⟨0, rfl, s, rfl, rfl, by simp [responsePort, hv, observeFrom], rfl, fun _ => ⟨hb, hans⟩, nofun⟩
    | cons ans rest =>
      have hnow := (transactionNow_of_answered ho hans).trans (busRequest_of_currentAction hact)
      cases hok : ans.ok with
      | false =>
        have hfail := hstep.trans (transact_of_failed hm hans hok)
        simp only [observeFrom, hok]
        exact ⟨1, rfl, .of_step hfail hnow (realises_ended rfl rfl)⟩
      | true =>
        have hnext := step_add_one_toNat ha
        obtain ⟨n, hn, hlater⟩ := ih (s := advance (action s.rd s.v) ans (answered (action s.rd s.v) ans rest s))
          (by simpa [hnext] using hcode) ho hb hd hv (by simpa [hnext] using lt_transactionCount ha)
        simp only [observeFrom, hok, if_true]
        refine ⟨n + 1, ?_, .of_step (hstep.trans (transact_of_ok hm hans hok)) hnow hlater⟩
        rw [← hn]
        simp [Observation.steps]
        omega

/-- Settles O29: acceptance, then the induction over the operation rule; the rule's latches are its own. -/
theorem stepsRealiseTheWholeOperationView : Obligations.StepsRealiseTheWholeOperationView := by
  intro s c cs hb ho hc o
  suffices h : ∃ n, o.steps = n + 1 ∧ Realises (n + 1) cs s o by
    obtain ⟨n, hn, h⟩ := h
    rw [hn]
    exact h
  have hstep := step_of_presented ho hb hc
  have hnow := transactionNow_of_no_request ho (busRequest_of_idle hb)
  cases hd : decode c with
  | error e =>
    have hobs : o = ⟨[], some (errorResponse e)⟩ := by simp [o, observeCommand, hd]
    rw [accept_of_error ((decode_eq_error_iff c e).1 hd)] at hstep
    have hcs : (reject c e s).commands = cs := by simp [reject, hc]
    rw [hobs]
    refine ⟨0, by simp [Observation.steps, errorResponse, causeCode_ne_ok], ?_⟩
    exact .of_step hstep hnow (hcs ▸ realises_ended (s := reject c e s) rfl rfl)
  | ok i =>
    rw [accept_of_legal (acceptanceCheck_of_decode hd)] at hstep
    have hobs : o = observeFrom s.chipAddr (resultOf i) (microcode i) 0#3 s.rd s.v s.answers := by
      simp only [o, observeCommand, hd]
      exact observeFrom_congr (latchesAgree_start i _ _ _ _) s.answers
    have hcs : (startOperation (latchCommand c s)).commands = cs := by simp [hc]
    obtain ⟨n, hn, h⟩ := exists_realises_observeFrom (s := startOperation (latchCommand c s)) (microcode i) rfl ho rfl
      ((congrArg decode (latchedWord_start c s)).trans hd) rfl (Nat.zero_le _)
    rw [hobs]
    exact ⟨n, hn, .of_step hstep hnow (hcs ▸ h)⟩

/-! ### Two runs with the same words and answers -/

/-- Two states whose block, from here on, sees the same and shows the same. -/
structure SameView (s s' : State) : Prop where
  alone : s.outside = [] ∧ s'.outside = []
  commands : s'.commands = s.commands
  chipAddr : s'.chipAddr = s.chipAddr
  answers : s'.answers = s.answers
  busy : s'.busy = s.busy
  port : responsePort s' = responsePort s
  operation : s.busy = true → ∃ i, decode (latchedWord s) = .ok i ∧ latchedWord s' = latchedWord s ∧
    s'.step = s.step ∧ s.step.toNat ≤ transactionCount i ∧
    LatchesAgree (resultOf i) ((microcode i).drop s.step.toNat) s.rd s.v s'.rd s'.v

variable {s' : State}

/-- Acceptance of one word makes the view the same, whatever the two blocks held. -/
theorem sameView_accept (c : CmdWord) (ho : s.outside = []) (ho' : s'.outside = [])
    (hc : s'.commands = s.commands) (hchip : s'.chipAddr = s.chipAddr) (ha : s'.answers = s.answers) : SameView (accept c s) (accept c s') := by
  cases hd : decode c with
  | error e =>
    have he := (decode_eq_error_iff c e).1 hd
    rw [accept_of_error he, accept_of_error he]
    exact ⟨⟨ho, ho'⟩, congrArg List.tail hc, hchip, ha, rfl, rfl, nofun⟩
  | ok i =>
    have hlegal := acceptanceCheck_of_decode hd
    rw [accept_of_legal hlegal, accept_of_legal hlegal]
    refine ⟨⟨ho, ho'⟩, congrArg List.tail hc, hchip, ha, rfl, rfl, fun _ => ⟨i, ?_, rfl, rfl, Nat.zero_le _, ?_⟩⟩
    · simpa using hd
    · exact latchesAgree_start i _ _ _ _

/-- One transaction or completion of two BUSY blocks with the same view. -/
theorem SameView.exists_busy_step (h : SameView s s') (hb : s.busy = true) :
    ∃ t t', step s = .next t ∧ step s' = .next t' ∧ SameView t t' ∧ transactionNow s' = transactionNow s := by
  have hview := h
  obtain ⟨⟨ho, ho'⟩, hc, hchip, hans, hbusy, hport, hop⟩ := h
  have hb' : s'.busy = true := hbusy.trans hb
  obtain ⟨i, hd, hw, hk, hle, hagree⟩ := hop hb
  have hd' : decode (latchedWord s') = .ok i := hw ▸ hd
  cases hcode : (microcode i).drop s.step.toNat with
  | nil =>
    have hlast : (microcode i).length ≤ s.step.toNat := List.drop_eq_nil_iff.1 hcode
    have hnone : (microcode i)[s.step.toNat]? = none := List.getElem?_eq_none_iff.2 hlast
    have hcount : s.step.toNat = transactionCount i := le_antisymm hle hlast
    rw [hcode] at hagree
    have hresult : resultOf i s.rd = resultOf i s'.rd := hagree
    refine ⟨complete (resultOf i s.rd) s, complete (resultOf i s'.rd) s', ?_, ?_, ?_, ?_⟩
    · rw [step_of_alone ho, blockTurn_of_busy hb hd, exec_of_last hb hcount]
    · rw [step_of_alone ho', blockTurn_of_busy hb' hd', exec_of_last hb' (hk ▸ hcount)]
    · exact ⟨⟨ho, ho'⟩, hc, hchip, hans, rfl, by simp [responsePort, hresult], nofun⟩
    · rw [transactionNow_of_no_request ho (by simp [busRequest, currentAction_of_last hd hnone]),
        transactionNow_of_no_request ho' (by simp [busRequest, currentAction_of_last hd' (hk ▸ hnone)])]
  | cons action code =>
    obtain ⟨ha, hrest⟩ := getElem?_of_drop_eq_cons hcode
    rw [hcode] at hagree
    obtain ⟨hact, hlater⟩ := hagree
    have hnow := currentAction_of_busy hb hd ha
    have hnow' : currentAction s' = some (action s.rd s.v) :=
      hact ▸ currentAction_of_busy hb' hd' (hk ▸ ha)
    obtain ⟨hstep, hm⟩ := step_of_currentAction ho hnow
    obtain ⟨hstep', -⟩ := step_of_currentAction ho' hnow'
    cases has : s.answers with
    | nil =>
      have has' : s'.answers = [] := hans.trans has
      refine ⟨s, s', hstep.trans (transact_of_unanswered hm has), hstep'.trans (transact_of_unanswered hm has'),
        hview, ?_⟩
      simp [transactionNow, ho, ho', has, has']
    | cons ans rest =>
      have has' : s'.answers = ans :: rest := hans.trans has
      have hreq : transactionNow s' = transactionNow s := by
        rw [transactionNow_of_answered ho has, transactionNow_of_answered ho' has', busRequest_of_currentAction hnow,
          busRequest_of_currentAction hnow', hchip]
      cases hok : ans.ok with
      | false =>
        refine ⟨_, _, hstep.trans (transact_of_failed hm has hok), hstep'.trans (transact_of_failed hm has' hok), ?_,
          hreq⟩
        exact ⟨⟨ho, ho'⟩, hc, hchip, rfl, rfl, by simp [responsePort, hk], nofun⟩
      | true =>
        refine ⟨_, _, hstep.trans (transact_of_ok hm has hok), hstep'.trans (transact_of_ok hm has' hok), ?_, hreq⟩
        refine ⟨⟨ho, ho'⟩, hc, hchip, rfl, hbusy, hport, fun _ => ⟨i, hd, hw, ?_, ?_, ?_⟩⟩
        · simp [hk]
        · simpa [step_add_one_toNat ha] using lt_transactionCount ha
        · simpa [step_add_one_toNat ha, hrest] using hlater ans

/-- One step of two blocks with the same view keeps it, and completes the same transaction. -/
theorem SameView.exists_step (h : SameView s s') :
    ∃ t t', step s = .next t ∧ step s' = .next t' ∧ SameView t t' ∧ transactionNow s' = transactionNow s := by
  cases hb : s.busy with
  | true => exact h.exists_busy_step hb
  | false =>
    have hview := h
    obtain ⟨⟨ho, ho'⟩, hc, hchip, hans, hbusy, hport, hop⟩ := h
    have hb' : s'.busy = false := hbusy.trans hb
    have hnow : transactionNow s' = transactionNow s := by
      rw [transactionNow_of_no_request ho (busRequest_of_idle hb),
        transactionNow_of_no_request ho' (busRequest_of_idle hb')]
    cases hcs : s.commands with
    | nil =>
      exact ⟨s, s', (step_of_alone ho).trans (blockTurn_of_waiting hb hcs),
        (step_of_alone ho').trans (blockTurn_of_waiting hb' (hc.trans hcs)), hview, hnow⟩
    | cons c cs =>
      exact ⟨_, _, step_of_presented ho hb hcs, step_of_presented ho' hb' (hc.trans hcs),
        sameView_accept c ho ho' hc hchip hans, hnow⟩

/-- Runs of any length from the same view. -/
theorem SameView.run (h : SameView s s') (n : Nat) :
    transcript n s' = transcript n s ∧
      ∃ t t', Sys2Proof.core.run n s = .next t ∧ Sys2Proof.core.run n s' = .next t' ∧ SameView t t' := by
  induction n generalizing s s' with
  | zero => exact ⟨rfl, s, s', rfl, rfl, h⟩
  | succ n ih =>
    obtain ⟨t, t', hs, hs', ht, hnow⟩ := h.exists_step
    rw [transcript_of_step hs, transcript_of_step hs', run_of_step hs, run_of_step hs', hnow, (ih ht).1]
    exact ⟨rfl, (ih ht).2⟩

/-- Settles O30: the first step is an acceptance, after which the views are the same for ever. -/
theorem noStateOfAnEarlierOperationIsUsed : Obligations.NoStateOfAnEarlierOperationIsUsed := by
  intro s s' hb hb' ho ho' hne hc hchip hans n
  obtain ⟨c, cs, hcs⟩ := List.exists_cons_of_ne_nil hne
  have hs := step_of_presented ho hb hcs
  have hs' := step_of_presented ho' hb' (hc.trans hcs)
  have hview := sameView_accept c ho ho' hc hchip hans
  refine ⟨?_, ?_⟩
  · cases n with
    | zero => rfl
    | succ n =>
      rw [transcript_of_step hs, transcript_of_step hs', (hview.run n).1,
        transactionNow_of_no_request ho (busRequest_of_idle hb),
        transactionNow_of_no_request ho' (busRequest_of_idle hb')]
  · obtain ⟨t, t', hrun, hrun', ht⟩ := (hview.run n).2
    exact ⟨t, t', (run_of_step hs n).trans hrun, (run_of_step hs' n).trans hrun', ht.port⟩

end Sys2Proof.Machine

/-! # Proofs of the memory statements (20_memory.md) -/

/-! ## The addresses on the bus port (R63, R85, R139) -/

namespace Sys2Proof.Machine

variable {s : State} {i : Instr}

theorem configReg_issued : ∀ p : PinIndex, configReg p ∈ issuedAddresses := by decide
theorem inputReg_issued : ∀ p : PinIndex, inputReg p ∈ issuedAddresses := by decide
theorem intensityReg_issued : ∀ p : PinIndex, intensityReg p ∈ issuedAddresses := by decide

/-- Of the phase registers only those of phase 0 are issued; 0x0A and 0x0B hold phase 1 (R125). -/
theorem phaseReg_zero_issued : ∀ p : PinIndex, phaseReg p 0#1 ∈ issuedAddresses := by decide

/-- The fixed addresses of R127. -/
theorem fixedAddress_issued :
    ∀ a ∈ [globalInt, chipCfg, in0, in1, cfg0, cfg1, ph00, ph01], a ∈ issuedAddresses := by decide

theorem analogWriteCode_issued (p : PinIndex) (x rd : Byte) (v : Nibble) :
    ∀ f ∈ analogWriteCode p x, (f rd v).tx.addr ∈ issuedAddresses := by
  simp [analogWriteCode, Transaction.addr, phaseReg_zero_issued, intensityReg_issued]

theorem interruptCode_issued (b : Bool) (rd : Byte) (v : Nibble) :
    ∀ f ∈ writeInte b ++ ackReads, (f rd v).tx.addr ∈ issuedAddresses := by
  simp [writeInte, ackReads, Transaction.addr, fixedAddress_issued]

/-- Every transaction of an operation rule addresses one of the 16 registers of R63. -/
theorem microcode_issued (i : Instr) (rd : Byte) (v : Nibble) :
    ∀ f ∈ microcode i, (f rd v).tx.addr ∈ issuedAddresses := by
  cases i with
  | begin => simp [microcode, beginCode, Transaction.addr, fixedAddress_issued]
  | pinMode pin mode => simp [microcode, pinModeCode, Transaction.addr, configReg_issued]
  | digitalRead pin => simp [microcode, digitalReadCode, Transaction.addr, inputReg_issued]
  | digitalWrite pin value => exact analogWriteCode_issued _ _ rd v
  | analogWrite pin intensity => exact analogWriteCode_issued _ _ rd v
  | enableInterrupt => exact interruptCode_issued true rd v
  | disableInterrupt => exact interruptCode_issued false rd v
  | clearInterrupt => exact fun f hf => interruptCode_issued true rd v f (List.mem_append_right _ hf)

theorem currentAction_issued {act : TxAction} (h : currentAction s = some act) : act.tx.addr ∈ issuedAddresses := by
  obtain ⟨_, i, action, _, ha, rfl⟩ := exists_of_currentAction h
  exact microcode_issued i s.rd s.v action (List.mem_of_getElem? ha)

/-- An issued address has a register, and it is no phase 1 register. -/
theorem mapped_of_issued :
    ∀ a ∈ issuedAddresses, isMapped a = true ∧ a ≠ 0x0A#8 ∧ a ≠ 0x0B#8 := by decide

@[simp] theorem Transaction.addr_request (chip : ChipAddr) (tx : Transaction) :
    (tx.request chip).addr = tx.addr := by
  cases tx <;> rfl

/-- A request names the chip it is given (R85), and its transaction's register. -/
theorem Transaction.request_cases (chip : ChipAddr) (tx : Transaction) :
    tx.request chip = .read chip tx.addr ∨ ∃ v, tx.request chip = .write chip tx.addr v := by
  cases tx with
  | read a => exact .inl rfl
  | write a v => exact .inr ⟨v, rfl⟩

/-- Settles O17: a request is that of an operation rule's transaction, whose address is an issued one. -/
theorem onlySixteenAddressesAreIssued : Obligations.OnlySixteenAddressesAreIssued := by
  intro s r hr
  obtain ⟨act, hact, rfl⟩ := exists_currentAction_of_busRequest hr
  have hissued := currentAction_issued hact
  obtain ⟨hmapped, hA, hB⟩ := mapped_of_issued _ hissued
  rw [Transaction.addr_request]
  exact ⟨hissued, hmapped, hA, hB, act.tx.request_cases s.chipAddr⟩

/-! ## A failed transaction (R84, R205) -/

theorem Transaction.request_injective (chip : ChipAddr) : Function.Injective (Transaction.request chip) := by
  intro tx tx' h
  match tx, tx', h with
  | .read _, .read _, rfl => rfl
  | .write _ _, .write _ _, rfl => rfl

/-- The step of a block whose presented transaction `tx` fails: the environment's side, then BUS_FAIL. -/
theorem step_of_failed_request {tx : Transaction} {ans : BusAnswer} {rest : List BusAnswer} (ho : s.outside = [])
    (hr : busRequest s = some (tx.request s.chipAddr)) (hans : s.answers = ans :: rest) (hok : ans.ok = false) :
    isMapped tx.addr = true ∧ ∃ act : TxAction, act.tx = tx ∧
      step s = .next (raise (.busFail s.step) (answered act ans rest s)) := by
  obtain ⟨act, hact, hreq⟩ := exists_currentAction_of_busRequest hr
  obtain rfl := Transaction.request_injective _ hreq
  obtain ⟨hstep, hm⟩ := step_of_currentAction ho hact
  exact ⟨hm, act, rfl, hstep.trans (transact_of_failed hm hans hok)⟩

theorem chipAfter_failed_read {ans : BusAnswer} (a : Byte) (m : Memory) (hok : ans.ok = false) :
    chipAfter (.read a) ans m = m := by
  simp [chipAfter, hok]

theorem chipAfter_failed_write {ans : BusAnswer} (a v : Byte) (m : Memory) (hok : ans.ok = false) :
    chipAfter (.write a v) ans m = if ans.latched then m.set a v else m := by
  simp [chipAfter, hok]

/-- A failed read never completes the acknowledgement: it leaves the draw, and of 0x0F may only set (R84.1, R205). -/
theorem pendingAfter_failed_read {act : TxAction} {ans : BusAnswer} {a : Byte} (p : Bool) (htx : act.tx = .read a)
    (hok : ans.ok = false) :
    pendingAfter act ans p = if a = 0x0F#8 then p || ans.pend else ans.pend := by
  by_cases hcfg : a = 0x0F#8
  · subst hcfg
    simp [pendingAfter, htx, isInputReg, chipCfg, in0, in1]
  · simp [pendingAfter, htx, hok, hcfg, chipCfg]

theorem pendingAfter_write {act : TxAction} {a v : Byte} (ans : BusAnswer) (p : Bool) (htx : act.tx = .write a v) :
    pendingAfter act ans p = p := by
  simp [pendingAfter, htx]

/-- Settles O37: the aborting step's chip and pending state, for a read and for a write. -/
theorem failedTransactionOnTheChip : Obligations.FailedTransactionOnTheChip := by
  intro s ans rest ho hans hok
  refine ⟨fun a hr => ?_, fun a v hr => ?_⟩
  · obtain ⟨-, act, htx, hstep⟩ := step_of_failed_request (tx := .read a) ho hr hans hok
    refine ⟨_, hstep, rfl, rfl, ?_, pendingAfter_failed_read s.intPending htx hok⟩
    simp [htx, chipAfter_failed_read a s.chip hok]
  · obtain ⟨hm, act, htx, hstep⟩ := step_of_failed_request (tx := .write a v) ho hr hans hok
    have hmapped : isMapped a = true := hm
    refine ⟨_, hstep, rfl, pendingAfter_write ans s.intPending htx, fun hl => ?_, fun hl r => ?_⟩
    · simp [htx, chipAfter_failed_write a v s.chip hok, hl]
    · simp [htx, chipAfter_failed_write a v s.chip hok, hl, Memory.read_set, hmapped]

end Sys2Proof.Machine

/-! # Proofs of the encoding statements (30_encoding.md) -/

/-! ## Decoding inverts encoding (R100–R102, R110) -/

namespace Sys2Proof

/-- The selection reads back the operands that the encoder packed (R101, R102). -/
theorem selectCommand_encode (i : Instr) : selectCommand (encode i) = .ok i := by
  cases i <;> simp [selectCommand, Instr.opcode, Instr.pinOperand, Instr.argOperand]

theorem decode_encode {i : Instr} (h : i.wellFormed = true) : decode (encode i) = .ok i := by
  simp [decode, acceptanceCheck_encode h, selectCommand_encode]

/-- A word decodes to `i` exactly when `i` is well-formed and the word is its encoding (R105). -/
theorem decode_eq_ok_iff {c : CmdWord} {i : Instr} : decode c = .ok i ↔ i.wellFormed = true ∧ encode i = c := by
  refine ⟨wellFormed_and_encode_of_decode, ?_⟩
  rintro ⟨h, rfl⟩
  exact decode_encode h

/-- Settles O1: the encoded word passes the checks, and the selection reads its operands back. -/
theorem decodeOfEncodeIsTheCommand : Obligations.DecodeOfEncodeIsTheCommand := fun _ => decode_encode

/-- Settles O2: the inverse direction, from the checks that a decoded word has passed. -/
theorem legalWordHasOneMeaning : Obligations.LegalWordHasOneMeaning := fun _ _ => wellFormed_and_encode_of_decode

/-- Settles O4: the first eleven words are encodings of well-formed commands, the twelfth is that of pin 16. -/
theorem specExampleWordsDecode : Obligations.SpecExampleWordsDecode :=
  ⟨rfl, decode_encode (i := .begin) rfl,
   rfl, decode_encode (i := .pinMode 4#8 .input) rfl,
   rfl, decode_encode (i := .pinMode 12#8 .output) rfl,
   rfl, decode_encode (i := .digitalRead 9#8) rfl,
   rfl, decode_encode (i := .digitalWrite 5#8 1#8) rfl,
   rfl, decode_encode (i := .digitalWrite 5#8 0#8) rfl,
   rfl, decode_encode (i := .analogWrite 3#8 8#8) rfl,
   rfl, decode_encode (i := .analogWrite 7#8 200#8) rfl,
   rfl, decode_encode (i := .enableInterrupt) rfl,
   rfl, decode_encode (i := .disableInterrupt) rfl,
   rfl, decode_encode (i := .clearInterrupt) rfl,
   rfl, (decode_eq_error_iff _ _).2 (acceptanceCheck_encode_of_not_wellFormed (i := .analogWrite 16#8 1#8) rfl)⟩

end Sys2Proof

/-! ## The opcode table (R102): a row's words are the encodings of its well-formed commands -/

namespace Sys2Proof

theorem encode_eq_of_fields {i : Instr} {c : CmdWord} (hop : opField c = i.opcode) (hpin : pinField c = i.pinOperand)
    (harg : argField c = i.argOperand) : encode i = c := by
  rw [encode, ← hop, ← hpin, ← harg, packWord_fields]

theorem packWord_and (op pin arg op' pin' arg' : Byte) :
    packWord op pin arg &&& packWord op' pin' arg' = packWord (op &&& op') (pin &&& pin') (arg &&& arg') := by
  rw [packWord, packWord, packWord, BitVec.and_append, BitVec.and_append]

/-- The pin mask of the pin-taking rows is the range check of R106. -/
theorem validPin_of_mask : ∀ pin : Byte, pin &&& 0xF0#8 = 0#8 → validPin pin = true := by decide

/-- The argument mask of the pinMode row leaves the two modes (D7). -/
theorem mode_of_mask : ∀ arg : Byte, arg &&& 0xFE#8 = 0#8 → arg = 0x00#8 ∨ arg = 0x01#8 := by decide

/-- A word that matches the row of a pin-taking command, field by field. -/
theorem fields_of_pinRow_matches (op argMask : Byte) {c : CmdWord}
    (h : TableRow.matches ⟨packWord 0xFF#8 0xF0#8 argMask, packWord op 0#8 0#8⟩ c = true) :
    opField c = op ∧ validPin (pinField c) = true ∧ argField c &&& argMask = 0#8 := by
  have h : c &&& packWord 0xFF#8 0xF0#8 argMask = packWord op 0#8 0#8 := beq_iff_eq.1 h
  rw [← packWord_fields c, packWord_and] at h
  have hop : opField c &&& 0xFF#8 = op := by simpa using congrArg opField h
  have hpin : pinField c &&& 0xF0#8 = 0#8 := by simpa using congrArg pinField h
  have harg : argField c &&& argMask = 0#8 := by simpa using congrArg argField h
  exact ⟨BitVec.and_allOnes.symm.trans hop, validPin_of_mask _ hpin, harg⟩

/-- A word without free bits matches its row alone. -/
theorem eq_of_matches_full {v c : CmdWord} (h : TableRow.matches ⟨0xFFFFFF#24, v⟩ c = true) : v = c := by
  have hfull : c &&& BitVec.allOnes 24 = v := beq_iff_eq.1 h
  rw [← hfull, BitVec.and_allOnes]

/-- A word that matches the row of a command is the encoding of a well-formed command of that row. -/
theorem exists_encode_of_matches {i : Instr} {c : CmdWord} (h : i.tableRow.matches c = true) :
    ∃ j : Instr, j.wellFormed = true ∧ j.tableRow = i.tableRow ∧ encode j = c := by
  cases i with
  | begin => exact ⟨.begin, rfl, rfl, eq_of_matches_full h⟩
  | enableInterrupt => exact ⟨.enableInterrupt, rfl, rfl, eq_of_matches_full h⟩
  | disableInterrupt => exact ⟨.disableInterrupt, rfl, rfl, eq_of_matches_full h⟩
  | clearInterrupt => exact ⟨.clearInterrupt, rfl, rfl, eq_of_matches_full h⟩
  | pinMode pin mode =>
    obtain ⟨hop, hpin, harg⟩ := fields_of_pinRow_matches 0x02#8 0xFE#8 h
    exact ⟨.pinMode (pinField c) (modeOf (argField c)), hpin, rfl,
      encode_eq_of_fields hop rfl (toArg_modeOf (mode_of_mask _ harg)).symm⟩
  | digitalRead pin =>
    obtain ⟨hop, hpin, harg⟩ := fields_of_pinRow_matches 0x03#8 0xFF#8 h
    exact ⟨.digitalRead (pinField c), hpin, rfl, encode_eq_of_fields hop rfl (BitVec.and_allOnes.symm.trans harg)⟩
  | digitalWrite pin value =>
    obtain ⟨hop, hpin, -⟩ := fields_of_pinRow_matches 0x04#8 0x00#8 h
    exact ⟨.digitalWrite (pinField c) (argField c), hpin, rfl, encode_eq_of_fields hop rfl rfl⟩
  | analogWrite pin intensity =>
    obtain ⟨hop, hpin, -⟩ := fields_of_pinRow_matches 0x05#8 0x00#8 h
    exact ⟨.analogWrite (pinField c) (argField c), hpin, rfl, encode_eq_of_fields hop rfl rfl⟩

theorem tableRow_matches_encode {i : Instr} (h : i.wellFormed = true) : i.tableRow.matches (encode i) = true := by
  cases i with
  | begin => exact Laws.TableRow.begin h
  | pinMode pin mode => exact Laws.TableRow.pinMode pin mode h
  | digitalRead pin => exact Laws.TableRow.digitalRead pin h
  | digitalWrite pin value => exact Laws.TableRow.digitalWrite pin value h
  | analogWrite pin intensity => exact Laws.TableRow.analogWrite pin intensity h
  | enableInterrupt => exact Laws.TableRow.enableInterrupt h
  | disableInterrupt => exact Laws.TableRow.disableInterrupt h
  | clearInterrupt => exact Laws.TableRow.clearInterrupt h

theorem tableRow_mem_opcodeTable (i : Instr) : i.tableRow ∈ opcodeTable := by
  cases i <;> simp [opcodeTable, Instr.tableRow]

theorem exists_tableRow_of_mem {r : TableRow} (h : r ∈ opcodeTable) : ∃ i : Instr, i.tableRow = r := by
  simp only [opcodeTable, List.mem_cons, List.not_mem_nil, or_false] at h
  rcases h with rfl | rfl | rfl | rfl | rfl | rfl | rfl | rfl <;> exact ⟨_, rfl⟩

/-- The words of a table row: the encodings of the well-formed commands that belong to it. -/
theorem matches_iff_exists_decode {r : TableRow} (hr : r ∈ opcodeTable) (c : CmdWord) :
    r.matches c = true ↔ ∃ i : Instr, decode c = .ok i ∧ i.tableRow = r := by
  obtain ⟨j, rfl⟩ := exists_tableRow_of_mem hr
  constructor
  · intro h
    obtain ⟨i, hw, hrow, he⟩ := exists_encode_of_matches h
    exact ⟨i, decode_eq_ok_iff.2 ⟨hw, he⟩, hrow⟩
  · rintro ⟨i, hd, hrow⟩
    obtain ⟨hw, rfl⟩ := decode_eq_ok_iff.1 hd
    exact hrow ▸ tableRow_matches_encode hw

/-- Settles O3: a matched row is the row of the one command that the word decodes to. -/
theorem decodingAgreesWithTheOpcodeTable : Obligations.DecodingAgreesWithTheOpcodeTable := by
  refine fun c => ⟨⟨?_, ?_⟩, fun r hr q hq hrc hqc => ?_⟩
  · rintro ⟨i, hd⟩
    exact ⟨i.tableRow, tableRow_mem_opcodeTable i,
      (matches_iff_exists_decode (tableRow_mem_opcodeTable i) c).2 ⟨i, hd, rfl⟩⟩
  · rintro ⟨r, hr, hrc⟩
    obtain ⟨i, hd, -⟩ := (matches_iff_exists_decode hr c).1 hrc
    exact ⟨i, hd⟩
  · obtain ⟨i, hi, rfl⟩ := (matches_iff_exists_decode hr c).1 hrc
    obtain ⟨j, hj, rfl⟩ := (matches_iff_exists_decode hq c).1 hqc
    rw [Except.ok.inj (hi.symm.trans hj)]

end Sys2Proof

/-! ## The 8244 legal words (R107) -/

namespace Sys2Proof

open Machine

/-- The acceptance checks raise only the three causes of R106. -/
theorem causeCode_of_check {c : CmdWord} {e : Cause} (h : acceptanceCheck c = some e) :
    causeCode e = 2#3 ∨ causeCode e = 3#3 ∨ causeCode e = 4#3 := by
  unfold acceptanceCheck at h
  split_ifs at h <;> cases h <;> simp [causeCode]

theorem decodeTableWord_eq_some_iff {c : CmdWord} {i : Instr} :
    decodeTableWord 24 c.toNat = some i ↔ decode c = .ok i := by
  have hmod : c.toNat % 2 ^ 24 = c.toNat := Nat.mod_eq_of_lt c.isLt
  have hword : BitVec.ofNat 24 c.toNat = c := by simp
  simp only [decodeTableWord, hmod, hword, c.isLt, if_true]
  cases decode c <;> simp

/-- The sixteen pins 0–15 (R7). -/
def validPins : Finset Byte := (Finset.range 16).image (BitVec.ofNat 8)

theorem mem_validPins : ∀ pin : Byte, pin ∈ validPins ↔ validPin pin = true := by decide

theorem card_validPins : validPins.card = 16 := by decide

/-- The commands without an operand (R103). -/
def pinlessCommands : Finset Instr := {.begin, .enableInterrupt, .disableInterrupt, .clearInterrupt}

def pinModeCommands : Finset Instr := Finset.image₂ .pinMode validPins {.output, .input}
def digitalReadCommands : Finset Instr := validPins.image .digitalRead
def digitalWriteCommands : Finset Instr := Finset.image₂ .digitalWrite validPins Finset.univ
def analogWriteCommands : Finset Instr := Finset.image₂ .analogWrite validPins Finset.univ

/-- The well-formed commands, family by family (R102). -/
def legalCommands : Finset Instr :=
  pinlessCommands ∪ (pinModeCommands ∪ (digitalReadCommands ∪ (digitalWriteCommands ∪ analogWriteCommands)))

section Families

variable (i : Instr)

/-! The families by opcode: no two share one, and together they are the well-formed commands. -/

theorem mem_pinlessCommands : i ∈ pinlessCommands ↔ isNoPinOp i.opcode = true ∧ i.wellFormed = true := by
  cases i <;> simp [pinlessCommands, Instr.opcode, isNoPinOp, Instr.wellFormed]

theorem mem_pinModeCommands : i ∈ pinModeCommands ↔ i.opcode = 0x02#8 ∧ i.wellFormed = true := by
  cases i with
  | pinMode pin mode => cases mode <;> simp [pinModeCommands, Instr.opcode, Instr.wellFormed, mem_validPins]
  | _ => simp [pinModeCommands, Instr.opcode]

theorem mem_digitalReadCommands : i ∈ digitalReadCommands ↔ i.opcode = 0x03#8 ∧ i.wellFormed = true := by
  cases i <;> simp [digitalReadCommands, Instr.opcode, Instr.wellFormed, mem_validPins]

theorem mem_digitalWriteCommands : i ∈ digitalWriteCommands ↔ i.opcode = 0x04#8 ∧ i.wellFormed = true := by
  cases i <;> simp [digitalWriteCommands, Instr.opcode, Instr.wellFormed, mem_validPins]

theorem mem_analogWriteCommands : i ∈ analogWriteCommands ↔ i.opcode = 0x05#8 ∧ i.wellFormed = true := by
  cases i <;> simp [analogWriteCommands, Instr.opcode, Instr.wellFormed, mem_validPins]

theorem mem_legalCommands : i ∈ legalCommands ↔ i.wellFormed = true := by
  simp only [legalCommands, Finset.mem_union, mem_pinlessCommands, mem_pinModeCommands, mem_digitalReadCommands,
    mem_digitalWriteCommands, mem_analogWriteCommands]
  cases i <;> simp [Instr.opcode, isNoPinOp]

end Families

theorem card_bytes : (Finset.univ : Finset Byte).card = 256 := FinEnum.card_eq_fintypeCard.symm

theorem card_pinlessCommands : pinlessCommands.card = 4 := by decide

theorem card_pinModeCommands : pinModeCommands.card = 32 := by
  rw [pinModeCommands, Finset.card_image₂ fun _ _ _ _ => Instr.pinMode.inj, card_validPins]
  rfl

theorem card_digitalReadCommands : digitalReadCommands.card = 16 := by
  rw [digitalReadCommands, Finset.card_image_of_injective _ fun _ _ => Instr.digitalRead.inj, card_validPins]

theorem card_digitalWriteCommands : digitalWriteCommands.card = 4096 := by
  rw [digitalWriteCommands, Finset.card_image₂ fun _ _ _ _ => Instr.digitalWrite.inj, card_validPins, card_bytes]

theorem card_analogWriteCommands : analogWriteCommands.card = 4096 := by
  rw [analogWriteCommands, Finset.card_image₂ fun _ _ _ _ => Instr.analogWrite.inj, card_validPins, card_bytes]

/-- 4 commands without an operand, 16 · 2 modes, 16 pins to read, 16 · 256 values and 16 · 256 intensities. -/
theorem card_legalCommands : legalCommands.card = 8244 := by
  rw [legalCommands, Finset.card_union_of_disjoint, Finset.card_union_of_disjoint, Finset.card_union_of_disjoint,
    Finset.card_union_of_disjoint, card_pinlessCommands, card_pinModeCommands, card_digitalReadCommands,
    card_digitalWriteCommands, card_analogWriteCommands]
  all_goals
    simp only [Finset.disjoint_left, Finset.mem_union, mem_pinlessCommands, mem_pinModeCommands,
      mem_digitalReadCommands, mem_digitalWriteCommands, mem_analogWriteCommands]
    rintro i ⟨hop, -⟩
    cases i <;> simp_all [Instr.opcode, isNoPinOp]

/-- Well-formed commands have different words. -/
theorem encode_toNat_injOn : Set.InjOn (fun i => (encode i).toNat) (legalCommands : Set Instr) := by
  intro i hi j hj h
  have hij : encode i = encode j := BitVec.eq_of_toNat_eq h
  have hd := decode_encode ((mem_legalCommands i).1 hi)
  rw [hij, decode_encode ((mem_legalCommands j).1 hj)] at hd
  exact (Except.ok.inj hd).symm

/-- The legal table words are the words of the well-formed commands. -/
theorem legalWords_eq_image :
    ((Finset.range (2 ^ 24)).filter fun w => (decodeTableWord 24 w).isSome = true) =
      legalCommands.image fun i => (encode i).toNat := by
  ext w
  simp only [Finset.mem_filter, Finset.mem_range, Finset.mem_image, Option.isSome_iff_exists]
  constructor
  · rintro ⟨hw, i, hi⟩
    obtain ⟨c, rfl⟩ : ∃ c : CmdWord, c.toNat = w := ⟨BitVec.ofNat 24 w, Nat.mod_eq_of_lt hw⟩
    obtain ⟨hwf, he⟩ := decode_eq_ok_iff.1 (decodeTableWord_eq_some_iff.1 hi)
    exact ⟨i, (mem_legalCommands i).2 hwf, congrArg BitVec.toNat he⟩
  · rintro ⟨i, hi, rfl⟩
    exact ⟨(encode i).isLt, i, decodeTableWord_eq_some_iff.2 (decode_encode ((mem_legalCommands i).1 hi))⟩

/-- Settles O5: the outcomes of the checks, and the count through the words' one meaning each. -/
theorem decodingIsTotalWith8244LegalWords : Obligations.DecodingIsTotalWith8244LegalWords := by
  refine ⟨fun c => ?_, ?_⟩
  · cases h : decode c with
    | ok i => exact .inl ⟨i, rfl, (decode_eq_ok_iff.1 h).1⟩
    | error e => exact .inr ⟨e, rfl, causeCode_of_check ((decode_eq_error_iff c e).1 h)⟩
  · rw [legalWords_eq_image, Finset.card_image_of_injOn encode_toNat_injOn, card_legalCommands]

end Sys2Proof

/-! ## No stop (R27, R63, R106) -/

namespace Sys2Proof.Machine

/-- Settles O58: each case of the step has a next state under the invariant. -/
theorem noStepStopsTheMachine : Obligations.NoStepStopsTheMachine := fun _ => exists_step_of_inv

end Sys2Proof.Machine

/-! # Proofs of the decoder statements (40_address_decode.md) -/

/-! ## The register address decoder as arithmetic on the pin number (R120–R126) -/

namespace Sys2Proof.Machine

theorem toNat_pinIndex (pin : Byte) : (pinIndex pin).toNat = pin.toNat % 16 := by
  simp [pinIndex, BitVec.extractLsb'_toNat]

section Registers

variable (p : PinIndex)

theorem toNat_group : (group p).toNat = p.toNat / 8 := by
  have hp := p.isLt
  unfold group
  split_ifs <;> rw [BitVec.toNat_ofNat] <;> omega

theorem group_eq_zero_iff : group p = 0#1 ↔ p.toNat / 8 = 0 := by
  rw [← toNat_group, ← BitVec.toNat_inj, BitVec.toNat_zero]

theorem toNat_bitpos : (bitpos p).toNat = p.toNat % 8 := by
  simp [bitpos]

theorem toNat_nibbleHi : (nibbleHi p).toNat = p.toNat % 2 := by
  simp [nibbleHi]

/-- A register of the pin's group stands at the base address for pins 0–7 and right after it for pins 8–15. -/
theorem toNat_groupReg (a b : Byte) (h : b.toNat = a.toNat + 1) :
    (if group p = 0#1 then a else b).toNat = a.toNat + p.toNat / 8 := by
  have hp := p.isLt
  split_ifs with hg
  · rw [(group_eq_zero_iff p).1 hg, Nat.add_zero]
  · rw [group_eq_zero_iff] at hg
    omega

theorem toNat_configReg : (configReg p).toNat = 6 + p.toNat / 8 := toNat_groupReg p 0x06#8 0x07#8 rfl

theorem toNat_inputReg : (inputReg p).toNat = p.toNat / 8 :=
  (toNat_groupReg p 0x00#8 0x01#8 rfl).trans (Nat.zero_add _)

theorem toNat_phaseReg (ph : BitVec 1) :
    (phaseReg p ph).toNat = (if ph = 0#1 then 2 else 10) + p.toNat / 8 := by
  unfold phaseReg
  split
  · exact toNat_groupReg p 0x02#8 0x03#8 rfl
  · exact toNat_groupReg p 0x0A#8 0x0B#8 rfl

/-- The closed form of R124: the table's first eight slots hold consecutive addresses. -/
theorem toNat_intensityReg : (intensityReg p).toNat = 16 + p.toNat / 2 := by
  have hslot : ∀ k : Fin 8, intensityTable[k].toNat = 16 + k := by decide
  exact hslot ⟨p.toNat / 2, by omega⟩

end Registers

/-! ### The mask (R121) -/

theorem mask_eq_twoPow (p : PinIndex) : mask p = BitVec.twoPow 8 (bitpos p).toNat :=
  (BitVec.twoPow_eq 8 _).symm

theorem toNat_mask (p : PinIndex) : (mask p).toNat = 2 ^ (p.toNat % 8) := by
  rw [mask_eq_twoPow, BitVec.toNat_twoPow, toNat_bitpos]
  exact Nat.mod_eq_of_lt (Nat.pow_lt_pow_right Nat.one_lt_two (Nat.mod_lt _ (by decide)))

theorem getLsbD_mask (p : PinIndex) (j : Nat) : (mask p).getLsbD j = decide ((bitpos p).toNat = j) := by
  simp [mask_eq_twoPow, BitVec.getLsbD_twoPow, (bitpos p).isLt]

/-- Settles O35: the arithmetic of each output at the pin `dpin mod 16`. -/
theorem decodePortGivesTheDecoderTable : Obligations.DecodePortGivesTheDecoderTable := by
  intro dpin dph
  simp only [decodePort, decide_eq_true_iff, toNat_group, toNat_bitpos, toNat_mask, toNat_configReg, toNat_inputReg,
    toNat_phaseReg, toNat_intensityReg, toNat_nibbleHi, toNat_pinIndex, and_self]

end Sys2Proof.Machine

/-! ## The partition of the registers (R138) -/

namespace Sys2Proof.Machine

section Injective

variable {p q : PinIndex}

theorem configReg_eq_iff : configReg p = configReg q ↔ p.toNat / 8 = q.toNat / 8 := by
  simp [← BitVec.toNat_inj, toNat_configReg]

theorem inputReg_eq_iff : inputReg p = inputReg q ↔ p.toNat / 8 = q.toNat / 8 := by
  simp [← BitVec.toNat_inj, toNat_inputReg]

theorem phaseReg_eq_iff (ph : BitVec 1) : phaseReg p ph = phaseReg q ph ↔ p.toNat / 8 = q.toNat / 8 := by
  simp [← BitVec.toNat_inj, toNat_phaseReg]

theorem intensityReg_eq_iff : intensityReg p = intensityReg q ↔ p.toNat / 2 = q.toNat / 2 := by
  simp [← BitVec.toNat_inj, toNat_intensityReg]

/-- A pin is its group and its bit position. -/
theorem eq_of_group_of_bitpos (hg : p.toNat / 8 = q.toNat / 8) (hb : bitpos p = bitpos q) : p = q := by
  rw [← BitVec.toNat_inj, toNat_bitpos, toNat_bitpos] at hb
  exact BitVec.eq_of_toNat_eq (by omega)

/-- A pin is its pair and its half of the pair. -/
theorem eq_of_pair_of_nibbleHi (hk : p.toNat / 2 = q.toNat / 2) (hn : nibbleHi p = nibbleHi q) : p = q := by
  rw [← BitVec.toNat_inj, toNat_nibbleHi, toNat_nibbleHi] at hn
  exact BitVec.eq_of_toNat_eq (by omega)

end Injective

/-- The pin of group `g` and bit position `b`. -/
def pinOfBit (g : BitVec 1) (b : BitVec 3) : PinIndex := .ofNatLT (8 * g.toNat + b.toNat) (by omega)

/-- The pin of pair `k` and nibble `n`. -/
def pinOfNibble (k : BitVec 3) (n : BitVec 1) : PinIndex := .ofNatLT (2 * k.toNat + n.toNat) (by omega)

section Surjective

variable (g n : BitVec 1) (b k : BitVec 3)

theorem bitpos_pinOfBit : bitpos (pinOfBit g b) = b := by
  apply BitVec.eq_of_toNat_eq
  rw [toNat_bitpos, pinOfBit, BitVec.toNat_ofNatLT]
  omega

theorem nibbleHi_pinOfNibble : nibbleHi (pinOfNibble k n) = n := by
  apply BitVec.eq_of_toNat_eq
  rw [toNat_nibbleHi, pinOfNibble, BitVec.toNat_ofNatLT]
  omega

theorem pinOfBit_div_eight : (pinOfBit g b).toNat / 8 = g.toNat := by
  rw [pinOfBit, BitVec.toNat_ofNatLT]
  omega

theorem pinOfNibble_div_two : (pinOfNibble k n).toNat / 2 = k.toNat := by
  rw [pinOfNibble, BitVec.toNat_ofNatLT]
  omega

theorem configReg_pinOfBit : configReg (pinOfBit g b) = 0x06#8 + g.setWidth 8 := by
  apply BitVec.eq_of_toNat_eq
  rw [toNat_configReg, pinOfBit_div_eight]
  bv_omega

theorem inputReg_pinOfBit : inputReg (pinOfBit g b) = 0x00#8 + g.setWidth 8 := by
  apply BitVec.eq_of_toNat_eq
  rw [toNat_inputReg, pinOfBit_div_eight]
  bv_omega

theorem phaseReg_zero_pinOfBit : phaseReg (pinOfBit g b) 0#1 = 0x02#8 + g.setWidth 8 := by
  apply BitVec.eq_of_toNat_eq
  rw [toNat_phaseReg, pinOfBit_div_eight, if_pos rfl]
  bv_omega

theorem phaseReg_one_pinOfBit : phaseReg (pinOfBit g b) 1#1 = 0x0A#8 + g.setWidth 8 := by
  apply BitVec.eq_of_toNat_eq
  rw [toNat_phaseReg, pinOfBit_div_eight, if_neg (by decide)]
  bv_omega

theorem intensityReg_pinOfNibble : intensityReg (pinOfNibble k n) = 0x10#8 + k.setWidth 8 := by
  apply BitVec.eq_of_toNat_eq
  rw [toNat_intensityReg, pinOfNibble_div_two]
  bv_omega

end Surjective

/-- Settles O34: register and position give the pin back, and the pin of each position is written out. -/
theorem pinsPartitionTheRegisters : Obligations.PinsPartitionTheRegisters := by
  refine ⟨fun p q => ⟨?_, ?_, ?_, fun ph => ?_⟩, fun k n => ?_, fun g b => ⟨?_, ?_, ?_, ?_⟩⟩
  · exact fun h => eq_of_pair_of_nibbleHi (intensityReg_eq_iff.1 h)
  · exact fun h => eq_of_group_of_bitpos (configReg_eq_iff.1 h)
  · exact fun h => eq_of_group_of_bitpos (inputReg_eq_iff.1 h)
  · exact fun h => eq_of_group_of_bitpos ((phaseReg_eq_iff ph).1 h)
  · exact ⟨_, intensityReg_pinOfNibble n k, nibbleHi_pinOfNibble n k⟩
  · exact ⟨_, configReg_pinOfBit g b, bitpos_pinOfBit g b⟩
  · exact ⟨_, inputReg_pinOfBit g b, bitpos_pinOfBit g b⟩
  · exact ⟨_, phaseReg_zero_pinOfBit g b, bitpos_pinOfBit g b⟩
  · exact ⟨_, phaseReg_one_pinOfBit g b, bitpos_pinOfBit g b⟩

end Sys2Proof.Machine

/-! ## The bit-field logic, the nibble mapper and the phase-bit selector (R128–R132, R136, R137) -/

namespace Sys2Proof.Machine

/-- A bit of the mask takes the new value, every other bit is kept. -/
theorem getLsbD_writeBit (r m : Byte) (b : Bool) (j : Nat) :
    (writeBit r m b).getLsbD j = if m.getLsbD j then b else r.getLsbD j := by
  by_cases hj : j < 8
  · simp only [BitVec.getLsbD_eq_getElem hj]
    cases b <;> cases hm : m[j] <;> simp [writeBit, hm]
  · simp [BitVec.getLsbD_of_ge _ j (Nat.le_of_not_lt hj)]

/-- Settles O33: the mask has the one bit `bitpos(p)`. -/
theorem writeBitChangesOneBit : Obligations.WriteBitChangesOneBit := by
  refine fun r p b => ⟨?_, fun j hj => ?_⟩
  · simp [getLsbD_writeBit, getLsbD_mask]
  · simp [getLsbD_writeBit, getLsbD_mask, hj.symm]

section NibbleMerge

variable {p : PinIndex}

theorem nibbleHi_eq_one_iff : nibbleHi p = 1#1 ↔ p.toNat % 2 = 1 := by
  rw [← toNat_nibbleHi, ← BitVec.toNat_inj]
  rfl

theorem nibbleMerge_of_even (hp : p.toNat % 2 = 0) (r : Byte) (w : Nibble) :
    nibbleMerge r p w = r.extractLsb' 4 4 ++ w := by
  simp [nibbleMerge, nibbleHi_eq_one_iff, hp]

theorem nibbleMerge_of_odd (hp : p.toNat % 2 = 1) (r : Byte) (w : Nibble) :
    nibbleMerge r p w = w ++ r.extractLsb' 0 4 := by
  simp [nibbleMerge, nibbleHi_eq_one_iff, hp]

end NibbleMerge

/-- Settles O32: the merged byte is two nibbles side by side, the pin's one new. -/
theorem nibbleMergeKeepsTheOtherNibble : Obligations.NibbleMergeKeepsTheOtherNibble := by
  refine fun r p w => ⟨fun hp => ?_, fun hp => ?_⟩
  · rw [nibbleMerge_of_even hp]
    exact ⟨BitVec.extractLsb'_append_eq_left, BitVec.extractLsb'_append_eq_right⟩
  · rw [nibbleMerge_of_odd hp]
    exact ⟨BitVec.extractLsb'_append_eq_right, BitVec.extractLsb'_append_eq_left⟩

theorem toNat_clamp (x : Byte) : (clamp x).toNat = min x.toNat 15 := by
  rw [clamp, BitVec.toNat_ofNat]
  omega

theorem clamp_of_le {x : Byte} (h : x.toNat ≤ 15) : clamp x = BitVec.ofNat 4 x.toNat := by
  rw [clamp, Nat.min_eq_left h]

theorem clamp_of_ge {x : Byte} (h : 15 ≤ x.toNat) : clamp x = 15#4 := by
  rw [clamp, Nat.min_eq_right h]

theorem clamp_eq_zero_iff (x : Byte) : clamp x = 0#4 ↔ x.toNat = 0 := by
  rw [← BitVec.toNat_inj, toNat_clamp, BitVec.toNat_zero]
  omega

/-- Only intensity 0 is off; it is stored as nibble 15 (R131). -/
theorem phaseSelect_clamp (x : Byte) :
    phaseSelect (clamp x) = if x.toNat = 0 then (false, 15#4) else (true, clamp x) := by
  simp only [phaseSelect, clamp_eq_zero_iff]

/-- Settles O36: an intensity is off exactly when it is 0, and otherwise keeps its clamped value. -/
theorem phaseBitAndNibbleOfAnIntensity : Obligations.PhaseBitAndNibbleOfAnIntensity := by
  refine fun x => ⟨toNat_clamp x, fun h => ?_, fun hpos hle => ?_, fun hge => ?_⟩
  · rw [phaseSelect_clamp, if_pos h]
  · rw [phaseSelect_clamp, if_neg (by omega), clamp_of_le hle]
  · rw [phaseSelect_clamp, if_neg (by omega), clamp_of_ge (by omega)]

end Sys2Proof.Machine

/-! # Proofs of the initialisation statements (41_init.md) -/

/-! ## The registers after a list of writes (R61, R75) -/

namespace Sys2Proof.Machine

theorem Memory.setAll_append (m : Memory) (cs ds : List (Byte × Byte)) :
    m.setAll (cs ++ ds) = (m.setAll cs).setAll ds := by
  induction cs generalizing m with
  | nil => rfl
  | cons c cs ih => exact ih (m.set c.1 c.2)

/-- After writes to distinct mapped registers each of them reads as its written value. -/
theorem Memory.read_setAll_of_mem {cs : List (Byte × Byte)} {c : Byte × Byte} (m : Memory) (hc : c ∈ cs)
    (hmapped : ∀ d ∈ cs, isMapped d.1 = true) (hdistinct : (cs.map Prod.fst).Nodup) :
    (m.setAll cs).read c.1.toNat = some c.2 := by
  induction cs generalizing m with
  | nil => cases hc
  | cons d cs ih =>
    rw [List.map_cons, List.nodup_cons] at hdistinct
    obtain ⟨hfresh, hdistinct⟩ := hdistinct
    rw [List.forall_mem_cons] at hmapped
    obtain ⟨hd, hmapped⟩ := hmapped
    rcases List.mem_cons.1 hc with rfl | hc
    · have hlater : ∀ d ∈ cs, d.1.toNat ≠ c.1.toNat := fun d hd h =>
        hfresh (List.mem_map.2 ⟨d, hd, BitVec.eq_of_toNat_eq h⟩)
      exact (Memory.read_setAll_other _ cs _ hlater).trans (by simp [Memory.read_set, hd])
    · exact ih (m.set d.1 d.2) hc hmapped hdistinct

/-! ### The first `n` writes of begin (R160) -/

theorem beginWrites_mapped : ∀ w ∈ beginWrites, isMapped w.1 = true := by
  have h : ∀ a ∈ [0x06#8, 0x07#8, 0x02#8, 0x03#8, 0x0F#8, 0x0E#8], isMapped a = true := by decide
  simpa [beginWrites] using h

theorem beginWrites_distinct : (beginWrites.map Prod.fst).Nodup := by
  have h : [0x06#8, 0x07#8, 0x02#8, 0x03#8, 0x0F#8, 0x0E#8].Nodup := by decide
  exact h

/-- Each of the first `n` writes of begin is what its register reads as. -/
theorem read_of_beginWrite_lt {j n : Nat} (m : Memory) (hj : j < beginWrites.length) (hn : j < n) :
    (m.setAll (beginWrites.take n)).read beginWrites[j].1.toNat = some beginWrites[j].2 :=
  Memory.read_setAll_of_mem m (List.mem_take_iff_getElem.2 ⟨j, lt_min hn hj, rfl⟩)
    (fun w hw => beginWrites_mapped w (List.mem_of_mem_take hw))
    (beginWrites_distinct.sublist ((List.take_sublist n _).map _))

/-- A register that none of the first `n` writes of begin names is left alone. -/
theorem read_of_no_beginWrite_lt {r n : Nat} (m : Memory)
    (h : ∀ j (hj : j < beginWrites.length), j < n → beginWrites[j].1.toNat ≠ r) :
    (m.setAll (beginWrites.take n)).read r = m.read r := by
  refine Memory.read_setAll_other m _ r fun w hw => ?_
  obtain ⟨j, hj, rfl⟩ := List.mem_take_iff_getElem.1 hw
  exact h j (lt_min_iff.1 hj).2 (lt_min_iff.1 hj).1

/-- No two of begin's writes go to the same register. -/
theorem beginWrite_addr_ne {j k : Nat} (hj : j < beginWrites.length) (hk : k < beginWrites.length) (hne : j ≠ k) :
    beginWrites[j].1.toNat ≠ beginWrites[k].1.toNat := by
  intro h
  refine hne ((List.Nodup.getElem_inj_iff beginWrites_distinct (hi := by simpa) (hj := by simpa)).1 ?_)
  simpa using BitVec.eq_of_toNat_eq h

theorem setAll_take_beginWrites_succ {k : Nat} {a v : Byte} (m : Memory) (hw : beginWrites[k]? = some (a, v)) :
    m.setAll (beginWrites.take (k + 1)) = (m.setAll (beginWrites.take k)).set a v := by
  rw [List.take_add_one, hw, Memory.setAll_append]
  rfl

end Sys2Proof.Machine

/-! ## begin in flight: one equation per step (R32–R35, R160) -/

namespace Sys2Proof.Machine

/-- The block that accepted begin in the state `s` and stands at transaction `k`, with the chip's registers `m` and the
answers to come. -/
def beginInFlight (s : State) (k : Nat) (m : Memory) (answers : List BusAnswer) : State :=
  { startOperation (latchCommand (encode .begin) s) with step := BitVec.ofNat 3 k, chip := m, answers := answers }

variable {s : State} {k : Nat} {m : Memory} {answers rest : List BusAnswer} {ans : BusAnswer} {a v : Byte}

theorem accept_begin (s : State) : accept (encode .begin) s = beginInFlight s 0 s.chip s.answers :=
  accept_of_legal (acceptanceCheck_encode rfl) s

theorem decode_latchedWord_begin : decode (latchedWord (beginInFlight s k m answers)) = .ok .begin :=
  (congrArg decode (latchedWord_start (encode .begin) s)).trans (decode_encode rfl)

/-- begin's operation rule is its six writes, whatever the latches hold. -/
theorem microcode_begin : microcode .begin = beginWrites.map fun w _ _ => { tx := .write w.1 w.2 } := rfl

/-- In flight at transaction `k`, begin's action is its write of index `k`. -/
theorem getElem?_microcode_begin (hw : beginWrites[k]? = some (a, v)) :
    (microcode .begin)[(beginInFlight s k m answers).step.toNat]? = some fun _ _ => { tx := .write a v } := by
  have hlt : k < 6 := (List.getElem?_eq_some_iff.1 hw).1
  have hk : (beginInFlight s k m answers).step.toNat = k := Nat.mod_eq_of_lt (by omega)
  rw [hk, microcode_begin, List.getElem?_map, hw]
  rfl

theorem busRequest_begin (hw : beginWrites[k]? = some (a, v)) :
    busRequest (beginInFlight s k m answers) = some (.write s.chipAddr a v) :=
  busRequest_of_currentAction (currentAction_of_busy rfl decode_latchedWord_begin (getElem?_microcode_begin hw))

/-- A successful write of begin stores its value; the answer's own changes come with it, and the next write is due. -/
theorem exec_begin_of_ok (hw : beginWrites[k]? = some (a, v)) (hok : ans.ok = true) :
    exec .begin (beginInFlight s k m (ans :: rest)) =
      .next (beginInFlight s (k + 1) ((m.set a v).setAll ans.side) rest) := by
  have ha := getElem?_microcode_begin (s := s) (m := m) (answers := ans :: rest) hw
  rw [exec_of_action rfl ha, transact_of_ok (action_mapped ha 0#8 0#4) rfl hok]
  simp [advance, answered, beginInFlight, chipAfter, pendingAfter, rdAfter, hok, BitVec.ofNat_add]

/-- A failed write of begin ends it with BUS_FAIL at its index, its register as the environment chose. -/
theorem exec_begin_of_failed (hw : beginWrites[k]? = some (a, v)) (hok : ans.ok = false) :
    exec .begin (beginInFlight s k m (ans :: rest)) =
      .next (raise (.busFail (BitVec.ofNat 3 k)) (beginInFlight s k (if ans.latched then m.set a v else m) rest)) := by
  have ha := getElem?_microcode_begin (s := s) (m := m) (answers := ans :: rest) hw
  rw [exec_of_action rfl ha, transact_of_failed (action_mapped ha 0#8 0#4) rfl hok]
  simp [answered, beginInFlight, chipAfter, pendingAfter, hok]

theorem exec_begin_of_last :
    exec .begin (beginInFlight s 6 m answers) = .next (complete false (beginInFlight s 6 m answers)) :=
  exec_of_last rfl rfl

theorem busRequest_begin_of_last : busRequest (beginInFlight s 6 m answers) = none := by
  simp [busRequest, currentAction_of_last (s := beginInFlight s 6 m answers) decode_latchedWord_begin rfl]

/-- Settles O18: acceptance, the six successful writes one by one, and completion. -/
theorem beginRunsToCompletion : Obligations.BeginRunsToCompletion := by
  intro s a0 a1 a2 a3 a4 a5 rest hb hans hok
  simp only [List.forall_mem_cons] at hok
  obtain ⟨h0, h1, h2, h3, h4, h5, -⟩ := hok
  have hstart : exec .begin s = .next (beginInFlight s 0 s.chip (a0 :: a1 :: a2 :: a3 :: a4 :: a5 :: rest)) := by
    rw [exec_of_idle _ hb, accept_begin, hans]
  refine ⟨_, _, _, _, _, _, _, hstart,
    busRequest_begin rfl, exec_begin_of_ok rfl h0, busRequest_begin rfl, exec_begin_of_ok rfl h1,
    busRequest_begin rfl, exec_begin_of_ok rfl h2, busRequest_begin rfl, exec_begin_of_ok rfl h3,
    busRequest_begin rfl, exec_begin_of_ok rfl h4, busRequest_begin rfl, exec_begin_of_ok rfl h5,
    busRequest_begin_of_last, exec_begin_of_last.trans ?_⟩
  simp [complete, beginInFlight, startOperation, latchCommand, statusOk, Instr.opcode, Instr.pinOperand,
    Instr.argOperand, hb]

/-! ## A run of begin whose answers bring no changes of their own (R161, R162) -/

theorem step_begin (ho : s.outside = []) :
    step (beginInFlight s k m answers) = exec .begin (beginInFlight s k m answers) := by
  rw [step_of_alone (s := beginInFlight s k m answers) ho, blockTurn_of_busy rfl decode_latchedWord_begin]

/-- A quiet success takes the chip from begin's first `k` writes to its first `k + 1`. -/
theorem step_begin_of_quiet (ho : s.outside = []) (hk : k < 6) (hok : ans.ok = true) (hside : ans.side = []) :
    step (beginInFlight s k (m.setAll (beginWrites.take k)) (ans :: rest)) =
      .next (beginInFlight s (k + 1) (m.setAll (beginWrites.take (k + 1))) rest) := by
  have hw : beginWrites[k]? = some beginWrites[k] := List.getElem?_eq_getElem hk
  rw [step_begin ho, exec_begin_of_ok hw hok, hside, setAll_take_beginWrites_succ m hw]
  rfl

/-- The steps of the quiet successes `oks` take begin from transaction `k` to transaction `k + oks.length`. -/
theorem run_begin_of_quiet {oks : List BusAnswer} (n : Nat) (ho : s.outside = []) (hk : k + oks.length ≤ 6)
    (hoks : ∀ a ∈ oks, a.ok = true ∧ a.side = []) :
    Sys2Proof.core.run (oks.length + n) (beginInFlight s k (m.setAll (beginWrites.take k)) (oks ++ rest)) =
      Sys2Proof.core.run n
        (beginInFlight s (k + oks.length) (m.setAll (beginWrites.take (k + oks.length))) rest) := by
  induction oks generalizing k with
  | nil => simp
  | cons a oks ih =>
    rw [List.forall_mem_cons] at hoks
    obtain ⟨⟨hok, hside⟩, hoks⟩ := hoks
    rw [List.length_cons] at hk ⊢
    have hstep := step_begin_of_quiet (m := m) (rest := oks ++ rest) ho (show k < 6 by omega) hok hside
    rw [Nat.add_right_comm, List.cons_append, run_of_step hstep, ih (by omega) hoks, Nat.add_right_comm k,
      Nat.add_assoc k]

/-- Settles O42: the chip holds begin's first `k` writes, or its first `k + 1` where the failed one was latched. -/
theorem failedBeginLeavesAPartialState : Obligations.FailedBeginLeavesAPartialState := by
  intro s cs oks rest bad hb ho hc hans hlt hoks hbad
  have hw : beginWrites[oks.length]? = some beginWrites[oks.length] := List.getElem?_eq_getElem hlt
  have hstart : step s = .next (beginInFlight s 0 s.chip (oks ++ bad :: rest)) := by
    rw [step_of_presented ho hb hc, ← hans]
    exact congrArg _ (accept_begin s)
  have hquiet := run_begin_of_quiet (k := 0) (m := s.chip) (rest := bad :: rest) 1 ho (by omega) hoks
  rw [Nat.zero_add] at hquiet
  have hfail := (step_begin ho).trans
    (exec_begin_of_failed (m := s.chip.setAll (beginWrites.take oks.length)) (rest := rest) hw hbad)
  refine ⟨_, (run_of_step hstart _).trans (hquiet.trans (run_of_step hfail 0)), rfl, ?_⟩
  simp only [raise_chip, beginInFlight]
  cases hl : bad.latched with
  | true =>
    simp only [if_true, ← setAll_take_beginWrites_succ s.chip hw]
    exact ⟨fun j hj hjk => read_of_beginWrite_lt s.chip hj (by omega),
      fun h => read_of_beginWrite_lt s.chip h (by omega),
      fun r hr => read_of_no_beginWrite_lt s.chip fun j hj hjk => hr j hj (by omega)⟩
  | false =>
    refine ⟨fun j hj hjk => read_of_beginWrite_lt s.chip hj hjk, fun h => ?_,
      fun r hr => read_of_no_beginWrite_lt s.chip fun j hj hjk => hr j hj hjk.le⟩
    exact read_of_no_beginWrite_lt s.chip fun j hj hjk => beginWrite_addr_ne hj h hjk.ne

/-! ## begin in the reference environment (R80, R161) -/

theorem refRun_of_refStep {e e' : RefEnv} {t : State} (h : refStep e s = (e', .next t)) (n : Nat) :
    refRun (n + 1) e s = refRun n e' t := by
  simp [refRun, h]

/-- Without a request the reference environment only lets the block step. -/
theorem refStep_of_no_request (e : RefEnv) (ho : s.outside = []) (h : busRequest s = none) :
    refStep e s = (e, step s) := by
  simp [refStep, h, ← ho]

/-- A write of begin that the reference environment does not fail is a quiet success. -/
theorem refStep_begin {e : RefEnv} (ho : s.outside = []) (hk : k < 6) (he : e.index ∉ e.faults) :
    refStep e (beginInFlight s k (m.setAll (beginWrites.take k)) answers) =
      ({ e with index := e.index + 1 }, .next (beginInFlight s (k + 1) (m.setAll (beginWrites.take (k + 1))) [])) := by
  have hw : beginWrites[k]? = some beginWrites[k] := List.getElem?_eq_getElem hk
  have halone (m : Memory) (a : BusAnswer) :
      { beginInFlight s k m answers with answers := [a], outside := [] } = beginInFlight s k m [a] := by
    simp [beginInFlight, startOperation, latchCommand, ho]
  simp only [refStep, busRequest_begin hw, halone]
  rw [step_begin_of_quiet ho hk (by simp [refAnswer, he]) rfl]

theorem refStep_begin_of_last {e : RefEnv} (ho : s.outside = []) :
    refStep e (beginInFlight s 6 m answers) = (e, .next (complete false (beginInFlight s 6 m answers))) := by
  rw [refStep_of_no_request (s := beginInFlight s 6 m answers) e ho busRequest_begin_of_last, step_begin ho,
    exec_begin_of_last]

theorem noFaults_succ {e : RefEnv} {n : Nat} (h : noFaults e (n + 1)) :
    e.index ∉ e.faults ∧ noFaults { e with index := e.index + 1 } n := by
  refine ⟨h e.index le_rfl (by omega), fun k hk hlt => h k ?_ ?_⟩
  · exact Nat.le_of_succ_le hk
  · exact hlt.trans_eq (by simp only; omega)

/-- Without faults the reference environment takes begin through its `n` remaining writes to its completion. -/
theorem exists_refRun_begin {e : RefEnv} {n : Nat} (ho : s.outside = []) (hk : k + n = 6) (he : noFaults e n) :
    ∃ e' rest, refRun (n + 1) e (beginInFlight s k (m.setAll (beginWrites.take k)) answers) =
      (e', .next (complete false (beginInFlight s 6 (m.setAll beginWrites) rest))) := by
  induction n generalizing k e answers with
  | zero =>
    obtain rfl : k = 6 := hk
    exact ⟨e, answers, refRun_of_refStep (refStep_begin_of_last ho) 0⟩
  | succ n ih =>
    obtain ⟨hnow, hlater⟩ := noFaults_succ he
    rw [refRun_of_refStep (refStep_begin ho (by omega) hnow)]
    exact ih (by omega) hlater

/-- Settles O45: acceptance, then the six writes without a fault; the chip holds all of begin's writes. -/
theorem beginPostState : Obligations.BeginPostState := by
  intro e s hb ho hc he
  have hstart : refStep e s = (e, .next (beginInFlight s 0 s.chip s.answers)) := by
    rw [refStep_of_no_request e ho (busRequest_of_idle hb), step_of_presented ho hb hc]
    exact congrArg (fun t => (e, Host.Outcome.next t)) (accept_begin s)
  obtain ⟨e', rest, hrun⟩ := exists_refRun_begin (k := 0) (m := s.chip) (answers := s.answers) ho rfl he
  have hstored (j : Nat) (hj : j < 6) := read_of_beginWrite_lt s.chip (j := j) (n := 6) hj hj
  refine ⟨e', _, (refRun_of_refStep hstart 7).trans hrun, rfl, hstored 0 (by decide), hstored 1 (by decide),
    hstored 2 (by decide), hstored 3 (by decide), hstored 4 (by decide), hstored 5 (by decide), fun r hr => ?_⟩
  refine Memory.read_setAll_other s.chip beginWrites r ?_
  simpa [beginWrites, eq_comm] using hr

end Sys2Proof.Machine

/-! # Proofs of the pin-operation statements (42_pin_ops.md) -/

/-! ## One command in flight: the same for every operation rule (R32–R35) -/

namespace Sys2Proof.Machine

/-- The block is BUSY with the command `i`. -/
structure InFlight (i : Instr) (s : State) : Prop where
  busy : s.busy = true
  word : decode (latchedWord s) = .ok i

/-- The state in which the command `i` has just been accepted. -/
def started (i : Instr) (s : State) : State := startOperation (latchCommand (encode i) s)

/-- The action of index `step` of the operation rule of `i`, from the latches of `s`. -/
def actionAt (i : Instr) (s : State) : Option TxAction :=
  (microcode i)[s.step.toNat]?.map fun action => action s.rd s.v

/-- The state after the transaction of index `step` has succeeded with the answer `ans`. -/
def afterOk (i : Instr) (s : State) (ans : BusAnswer) : State :=
  match actionAt i s with
  | some act => advance act ans (answered act ans s.answers.tail s)
  | none => s

/-- The state after the transaction of index `step` has failed with the answer `ans`. -/
def afterFailure (i : Instr) (s : State) (ans : BusAnswer) : State :=
  match actionAt i s with
  | some act => raise (.busFail s.step) (answered act ans s.answers.tail s)
  | none => s

variable {s : State} {i : Instr} {act : TxAction} {ans bad : BusAnswer} {oks rest : List BusAnswer}

theorem exec_start (hw : i.wellFormed = true) (hb : s.busy = false) : exec i s = .next (started i s) := by
  rw [exec_of_idle i hb, accept_of_legal (acceptanceCheck_encode hw), started]

theorem step_start {cs : List CmdWord} (hw : i.wellFormed = true) (hb : s.busy = false) (ho : s.outside = [])
    (hc : s.commands = encode i :: cs) : step s = .next (started i s) := by
  rw [step_of_presented ho hb hc, accept_of_legal (acceptanceCheck_encode hw), started]

theorem inFlight_started (hw : i.wellFormed = true) (s : State) : InFlight i (started i s) :=
  ⟨rfl, (congrArg decode (latchedWord_start _ s)).trans (decode_encode hw)⟩

/-- Every index below N(op) has its action (R33). -/
theorem exists_actionAt (hk : s.step.toNat < transactionCount i) : ∃ act, actionAt i s = some act :=
  ⟨_, congrArg _ (List.getElem?_eq_getElem hk)⟩

theorem exists_of_actionAt (h : actionAt i s = some act) :
    ∃ action, (microcode i)[s.step.toNat]? = some action ∧ action s.rd s.v = act := by
  simpa [actionAt] using h

theorem exec_of_actionAt (hb : s.busy = true) (h : actionAt i s = some act) :
    exec i s = transact act s ∧ isMapped act.tx.addr = true := by
  obtain ⟨action, ha, rfl⟩ := exists_of_actionAt h
  exact ⟨exec_of_action hb ha, action_mapped ha _ _⟩

theorem afterOk_of_actionAt (h : actionAt i s = some act) (ans : BusAnswer) :
    afterOk i s ans = advance act ans (answered act ans s.answers.tail s) := by
  simp only [afterOk, h]

theorem afterFailure_of_actionAt (h : actionAt i s = some act) (ans : BusAnswer) :
    afterFailure i s ans = raise (.busFail s.step) (answered act ans s.answers.tail s) := by
  simp only [afterFailure, h]

theorem afterOk_step (h : actionAt i s = some act) (ans : BusAnswer) :
    (afterOk i s ans).step.toNat = s.step.toNat + 1 := by
  obtain ⟨action, ha, -⟩ := exists_of_actionAt h
  rw [afterOk_of_actionAt h]
  exact step_add_one_toNat ha

theorem exec_of_ok (hb : s.busy = true) (h : actionAt i s = some act) (hans : s.answers = ans :: rest)
    (hok : ans.ok = true) : exec i s = .next (afterOk i s ans) := by
  obtain ⟨hexec, hm⟩ := exec_of_actionAt hb h
  rw [hexec, transact_of_ok hm hans hok, afterOk_of_actionAt h, hans, List.tail_cons]

theorem exec_of_failed (hb : s.busy = true) (h : actionAt i s = some act) (hans : s.answers = bad :: rest)
    (hbad : bad.ok = false) : exec i s = .next (afterFailure i s bad) := by
  obtain ⟨hexec, hm⟩ := exec_of_actionAt hb h
  rw [hexec, transact_of_failed hm hans hbad, afterFailure_of_actionAt h, hans, List.tail_cons]

namespace InFlight

variable (h : InFlight i s)
include h

theorem step_eq_exec (ho : s.outside = []) : step s = exec i s :=
  (step_of_alone ho).trans (blockTurn_of_busy h.busy h.word)

theorem busRequest_of_actionAt (ha : actionAt i s = some act) : busRequest s = some (act.tx.request s.chipAddr) := by
  obtain ⟨action, hget, rfl⟩ := exists_of_actionAt ha
  exact busRequest_of_currentAction (currentAction_of_busy h.busy h.word hget)

theorem busRequest_of_last (hk : s.step.toNat = transactionCount i) : busRequest s = none := by
  simp [busRequest, currentAction_of_last h.word (List.getElem?_eq_none_iff.2 hk.ge)]

theorem afterOk (ha : actionAt i s = some act) (ans : BusAnswer) : InFlight i (afterOk i s ans) := by
  rw [afterOk_of_actionAt ha]
  exact ⟨h.busy, h.word⟩

/-- A run through the successful answers `oks` that ends with the failed one `bad` (R33, R35). -/
theorem run_of_failed (ho : s.outside = []) (hans : s.answers = oks ++ bad :: rest)
    (hk : s.step.toNat + oks.length < transactionCount i) (hoks : ∀ a ∈ oks, a.ok = true) (hbad : bad.ok = false) :
    Sys2Proof.core.run (oks.length + 1) s = .next (afterFailure i (oks.foldl (Machine.afterOk i) s) bad) := by
  induction oks generalizing s with
  | nil =>
    obtain ⟨act, ha⟩ := exists_actionAt hk
    exact run_of_step ((h.step_eq_exec ho).trans (exec_of_failed h.busy ha hans hbad)) 0
  | cons a oks ih =>
    rw [List.forall_mem_cons] at hoks
    obtain ⟨hok, hoks⟩ := hoks
    rw [List.length_cons] at hk
    obtain ⟨act, ha⟩ := exists_actionAt (i := i) (s := s) (by omega)
    have hstep := (h.step_eq_exec ho).trans (exec_of_ok h.busy ha hans hok)
    refine (run_of_step hstep _).trans (ih (h.afterOk ha a) ?_ ?_ ?_ hoks)
    · rwa [afterOk_of_actionAt ha]
    · simp [afterOk_of_actionAt ha, hans]
    · rw [afterOk_step ha]
      omega

end InFlight

/-- Each successful transaction of an operation counts `step` up (R33). -/
theorem foldl_afterOk_step (hk : s.step.toNat + oks.length < transactionCount i) :
    (oks.foldl (afterOk i) s).step.toNat = s.step.toNat + oks.length := by
  induction oks generalizing s with
  | nil => rfl
  | cons a oks ih =>
    rw [List.length_cons] at hk ⊢
    obtain ⟨act, ha⟩ := exists_actionAt (i := i) (s := s) (by omega)
    have hstep := afterOk_step ha a
    rw [List.foldl_cons, ih (by omega), hstep]
    omega

/-- A command whose transactions succeed with `oks` and then fail with `bad`, from its acceptance on. -/
theorem run_of_failed_command {cs : List CmdWord} (hw : i.wellFormed = true) (hb : s.busy = false)
    (ho : s.outside = []) (hc : s.commands = encode i :: cs) (hans : s.answers = oks ++ bad :: rest)
    (hk : oks.length < transactionCount i) (hoks : ∀ a ∈ oks, a.ok = true) (hbad : bad.ok = false) :
    Sys2Proof.core.run (oks.length + 2) s =
      .next (afterFailure i (oks.foldl (afterOk i) (started i s)) bad) :=
  (run_of_step (step_start hw hb ho hc) _).trans
    ((inFlight_started hw s).run_of_failed ho hans ((Nat.zero_add _).trans_lt hk) hoks hbad)

/-- The response names the transaction that failed (R222). -/
theorem responsePort_of_failed_command (s : State) (oks : List BusAnswer) (bad : BusAnswer)
    (hk : oks.length < transactionCount i) :
    responsePort (afterFailure i (oks.foldl (afterOk i) (started i s)) bad) =
      some ⟨1#3, false, BitVec.ofNat 3 oks.length⟩ := by
  have hstep := foldl_afterOk_step (s := started i s) ((Nat.zero_add oks.length).trans_lt hk)
  have hzero : (started i s).step.toNat = 0 := rfl
  rw [hzero, Nat.zero_add] at hstep
  obtain ⟨act, ha⟩ := exists_actionAt (hstep.trans_lt hk)
  rw [afterFailure_of_actionAt ha, ← hstep, BitVec.ofNat_toNat, BitVec.setWidth_eq]
  rfl

end Sys2Proof.Machine

/-! ## The decoder functions at a command's pin (R101, R120–R131) -/

namespace Sys2Proof.Machine

section CommandPin

variable {pin : Byte} (hp : pin.toNat < 16)
include hp

theorem toNat_pinIndex_of_lt : (pinIndex pin).toNat = pin.toNat := by
  rw [toNat_pinIndex, Nat.mod_eq_of_lt hp]

/-- The register of the pin's group, chosen from the pin alone (90_conflicts.md C1). -/
theorem groupReg_pinIndex (a b : Byte) :
    (if group (pinIndex pin) = 0#1 then a else b) = if pin.toNat < 8 then a else b := by
  simp only [group_eq_zero_iff, toNat_pinIndex_of_lt hp, Nat.div_eq_zero_iff_lt (by decide : 0 < 8)]

theorem configReg_pinIndex : configReg (pinIndex pin) = if pin.toNat < 8 then 0x06#8 else 0x07#8 :=
  groupReg_pinIndex hp _ _

theorem inputReg_pinIndex : inputReg (pinIndex pin) = if pin.toNat < 8 then 0x00#8 else 0x01#8 :=
  groupReg_pinIndex hp _ _

theorem phaseReg_pinIndex : phaseReg (pinIndex pin) 0#1 = if pin.toNat < 8 then 0x02#8 else 0x03#8 :=
  groupReg_pinIndex hp _ _

theorem intensityReg_pinIndex : intensityReg (pinIndex pin) = BitVec.ofNat 8 (16 + pin.toNat / 2) := by
  apply BitVec.eq_of_toNat_eq
  rw [toNat_intensityReg, toNat_pinIndex_of_lt hp, BitVec.toNat_ofNat]
  omega

theorem toNat_bitpos_pinIndex : (bitpos (pinIndex pin)).toNat = pin.toNat % 8 := by
  rw [toNat_bitpos, toNat_pinIndex_of_lt hp]

theorem mask_pinIndex : mask (pinIndex pin) = 1#8 <<< (pin.toNat % 8) := by
  rw [mask, toNat_bitpos_pinIndex hp]

end CommandPin

/-- R129 reads the one bit `bitpos(p)`. -/
theorem readBit_eq_getLsbD (r : Byte) (p : PinIndex) : readBit r p = r.getLsbD (bitpos p).toNat := by
  rw [readBit, mask_eq_twoPow, BitVec.and_twoPow]
  cases r.getLsbD (bitpos p).toNat with
  | false => rfl
  | true =>
    have hmask : mask p ≠ 0#8 := fun h => absurd (congrArg BitVec.toNat h) (by simp [toNat_mask])
    simpa [← mask_eq_twoPow] using hmask

theorem modeBit_eq_decide (mode : PinMode) : modeBit mode = decide (mode = .input) := by
  cases mode <;> rfl

/-- The phase bit and the nibble to store, in numbers (R130, R131). -/
theorem phaseSelect_clamp_eq (x : Byte) :
    phaseSelect (clamp x) = (decide (x ≠ 0#8), BitVec.ofNat 4 (if x = 0#8 then 15 else min x.toNat 15)) := by
  by_cases hx : x = 0#8
  · subst hx
    rfl
  · have h0 : x.toNat ≠ 0 := fun h => hx (BitVec.eq_of_toNat_eq h)
    rw [phaseSelect_clamp, if_neg h0, if_neg hx, decide_eq_true hx, clamp]

/-- digitalWrite stores nibble 15, high or low (R133, R173). -/
theorem phaseSelect_clamp_dwriteMap (b : Byte) : phaseSelect (clamp (dwriteMap b)) = (decide (b ≠ 0#8), 15#4) := by
  by_cases hb : b = 0#8
  · subst hb
    rfl
  · have hmap : dwriteMap b = 15#8 := by simp [dwriteMap, hb]
    rw [hmap, decide_eq_true hb]
    rfl

/-! ## A successful transaction, whole (R33, R75) -/

theorem configReg_ne_chipCfg : ∀ p : PinIndex, configReg p ≠ chipCfg := by decide
theorem inputReg_ne_chipCfg : ∀ p : PinIndex, inputReg p ≠ chipCfg := by decide
theorem phaseReg_ne_chipCfg : ∀ (p : PinIndex) (ph : BitVec 1), phaseReg p ph ≠ chipCfg := by decide
theorem intensityReg_ne_chipCfg : ∀ p : PinIndex, intensityReg p ≠ chipCfg := by decide

/-- The state after a successful read that latches its byte into `rd` (and `w` into `v`), the pending state a draw. -/
def afterRead (w : Option Nibble) (ans : BusAnswer) (s : State) : State :=
  { s with
    answers := s.answers.tail
    chip := s.chip.setAll ans.side
    intPending := ans.pend
    rd := ans.rdata
    v := w.getD s.v
    step := s.step + 1#3 }

/-- The state after a successful write of `d` to the register `a`. -/
def afterWrite (a d : Byte) (ans : BusAnswer) (s : State) : State :=
  { s with
    answers := s.answers.tail
    chip := (s.chip.set a d).setAll ans.side
    step := s.step + 1#3 }

section Success

variable {i : Instr} {s : State} {ans : BusAnswer} {rest : List BusAnswer} {a d : Byte} {w : Option Nibble}

/-- A read that belongs to no acknowledging pair, of any register but 0x0F (log 12). -/
theorem afterOk_of_read (h : actionAt i s = some { tx := .read a, latchV := w }) (ha : a ≠ chipCfg)
    (hok : ans.ok = true) : afterOk i s ans = afterRead w ans s := by
  simp [afterOk_of_actionAt h, advance, answered, chipAfter, pendingAfter, rdAfter, hok, ha, afterRead]

theorem afterOk_of_write (h : actionAt i s = some { tx := .write a d }) (hok : ans.ok = true) :
    afterOk i s ans = afterWrite a d ans s := by
  simp [afterOk_of_actionAt h, advance, answered, chipAfter, pendingAfter, rdAfter, hok, afterWrite]

namespace InFlight

variable (h : InFlight i s)
include h

theorem afterRead (w : Option Nibble) (ans : BusAnswer) : InFlight i (afterRead w ans s) := ⟨h.busy, h.word⟩

theorem afterWrite (a d : Byte) (ans : BusAnswer) : InFlight i (afterWrite a d ans s) := ⟨h.busy, h.word⟩

theorem exec_of_read (hact : actionAt i s = some { tx := .read a, latchV := w }) (ha : a ≠ chipCfg)
    (hans : s.answers = ans :: rest) (hok : ans.ok = true) : exec i s = .next (Machine.afterRead w ans s) := by
  rw [exec_of_ok h.busy hact hans hok, afterOk_of_read hact ha hok]

theorem exec_of_write (hact : actionAt i s = some { tx := .write a d }) (hans : s.answers = ans :: rest)
    (hok : ans.ok = true) : exec i s = .next (Machine.afterWrite a d ans s) := by
  rw [exec_of_ok h.busy hact hans hok, afterOk_of_write hact hok]

end InFlight

end Success

end Sys2Proof.Machine

/-! ## Every pin operation, from acceptance to completion (R170–R173) -/

namespace Sys2Proof.Machine

theorem validPin_of_lt {pin : Byte} (hp : pin.toNat < 16) : validPin pin = true := decide_eq_true hp

/-- Settles O20: acceptance, the one read, and completion with the pin's bit of the byte read. -/
theorem digitalReadRunsToCompletion : Obligations.DigitalReadRunsToCompletion := by
  intro pin s a0 rest hp hb hans h0 reg
  have hw : (Instr.digitalRead pin).wellFormed = true := validPin_of_lt hp
  have hreg : inputReg (pinIndex pin) = reg := inputReg_pinIndex hp
  have hs1 := inFlight_started hw s
  have hs2 := hs1.afterRead none a0
  have ha1 : actionAt (.digitalRead pin) (started (.digitalRead pin) s) = some { tx := .read reg } := hreg ▸ rfl
  refine ⟨_, _, exec_start hw hb,
    hs1.busRequest_of_actionAt ha1, hs1.exec_of_read ha1 (hreg ▸ inputReg_ne_chipCfg _) hans h0,
    hs2.busRequest_of_last rfl, (exec_of_last hs2.busy rfl).trans ?_⟩
  simp [complete, afterRead, started, startOperation, latchCommand, resultOf, readBit_eq_getLsbD,
    toNat_bitpos_pinIndex hp, statusOk, Instr.opcode, Instr.pinOperand, Instr.argOperand, hans, hb]

section PinModeRule

variable {s : State} {pin : Byte} {mode : PinMode}

/-! The two actions of R170, by `step`. -/

theorem actionAt_config_read (hk : s.step = 0#3) :
    actionAt (.pinMode pin mode) s = some { tx := .read (configReg (pinIndex pin)) } := by
  rw [actionAt, hk]
  rfl

theorem actionAt_config_write (hk : s.step = 1#3) :
    actionAt (.pinMode pin mode) s =
      some { tx := .write (configReg (pinIndex pin)) (writeBit s.rd (mask (pinIndex pin)) (modeBit mode)) } := by
  rw [actionAt, hk]
  rfl

end PinModeRule

/-- Settles O19: acceptance, the read and the write of the port configuration register, completion. -/
theorem pinModeRunsToCompletion : Obligations.PinModeRunsToCompletion := by
  intro pin mode s a0 a1 rest hp hb hans h0 h1 reg data
  have hw : (Instr.pinMode pin mode).wellFormed = true := validPin_of_lt hp
  have hs1 := inFlight_started hw s
  have hs2 := hs1.afterRead none a0
  have hs3 := hs2.afterWrite reg data a1
  have ha1 := actionAt_config_read (pin := pin) (mode := mode) (s := started (.pinMode pin mode) s) rfl
  have ha2 := actionAt_config_write (pin := pin) (mode := mode)
    (s := afterRead none a0 (started (.pinMode pin mode) s)) rfl
  rw [configReg_pinIndex hp] at ha1 ha2
  rw [mask_pinIndex hp, modeBit_eq_decide] at ha2
  refine ⟨_, _, _, exec_start hw hb,
    hs1.busRequest_of_actionAt ha1, hs1.exec_of_read ha1 (configReg_pinIndex hp ▸ configReg_ne_chipCfg _) hans h0,
    hs2.busRequest_of_actionAt ha2, hs2.exec_of_write ha2 (congrArg List.tail hans) h1,
    hs3.busRequest_of_last rfl, (exec_of_last hs3.busy rfl).trans ?_⟩
  simp [complete, afterRead, afterWrite, started, startOperation, latchCommand, resultOf, statusOk, Instr.opcode,
    Instr.pinOperand, Instr.argOperand, hans, hb, reg, data]

section AnalogWriteRule

variable {i : Instr} {s : State} {p : PinIndex} {x : Byte} (hcode : microcode i = analogWriteCode p x)
include hcode

/-! The four actions of R172, by `step`. -/

theorem actionAt_phase_read (hk : s.step = 0#3) :
    actionAt i s = some { tx := .read (phaseReg p 0#1), latchV := some (phaseSelect (clamp x)).2 } := by
  rw [actionAt, hcode, hk]
  rfl

theorem actionAt_phase_write (hk : s.step = 1#3) :
    actionAt i s =
      some { tx := .write (phaseReg p 0#1) (writeBit s.rd (mask p) (phaseSelect (clamp x)).1) } := by
  rw [actionAt, hcode, hk]
  rfl

theorem actionAt_intensity_read (hk : s.step = 2#3) : actionAt i s = some { tx := .read (intensityReg p) } := by
  rw [actionAt, hcode, hk]
  rfl

theorem actionAt_intensity_write (hk : s.step = 3#3) :
    actionAt i s = some { tx := .write (intensityReg p) (nibbleMerge s.rd p s.v) } := by
  rw [actionAt, hcode, hk]
  rfl

/-- The operation rule of R172 from acceptance to completion, for both commands that use it (R173). -/
theorem exists_completion_of_analogWriteCode {a0 a1 a2 a3 : BusAnswer} {rest : List BusAnswer}
    (hw : i.wellFormed = true) (hresult : ∀ rd, resultOf i rd = false) (hb : s.busy = false)
    (hans : s.answers = a0 :: a1 :: a2 :: a3 :: rest) (hok : ∀ a ∈ [a0, a1, a2, a3], a.ok = true) :
    let reg := phaseReg p 0#1
    let ireg := intensityReg p
    let data := writeBit a0.rdata (mask p) (phaseSelect (clamp x)).1
    let w := (phaseSelect (clamp x)).2
    let idata := nibbleMerge a2.rdata p w
    ∃ s1 s2 s3 s4 s5,
      exec i s = .next s1 ∧
      busRequest s1 = some (.read s.chipAddr reg) ∧ exec i s1 = .next s2 ∧
      busRequest s2 = some (.write s.chipAddr reg data) ∧ exec i s2 = .next s3 ∧
      busRequest s3 = some (.read s.chipAddr ireg) ∧ exec i s3 = .next s4 ∧
      busRequest s4 = some (.write s.chipAddr ireg idata) ∧ exec i s4 = .next s5 ∧
      busRequest s5 = none ∧
      exec i s5 = .next { s with
        op := i.opcode, pin := i.pinOperand, arg := i.argOperand, step := 4#3, rd := a2.rdata, v := w
        rspValid := true, status := 0#3, result := false, failStep := 0#3, commands := s.commands.tail
        answers := rest, intPending := a2.pend
        chip := (((((s.chip.setAll a0.side).set reg data).setAll a1.side).setAll a2.side).set ireg idata).setAll
          a3.side } := by
  intro reg ireg data w idata
  simp only [List.forall_mem_cons] at hok
  obtain ⟨h0, h1, h2, h3, -⟩ := hok
  have hlast : transactionCount i = 4 := congrArg List.length hcode
  have hs1 := inFlight_started hw s
  have hs2 := hs1.afterRead (some w) a0
  have hs3 := hs2.afterWrite reg data a1
  have hs4 := hs3.afterRead none a2
  have hs5 := hs4.afterWrite ireg idata a3
  have ha1 := actionAt_phase_read hcode (s := started i s) rfl
  have ha2 := actionAt_phase_write hcode (s := afterRead (some w) a0 (started i s)) rfl
  have ha3 := actionAt_intensity_read hcode
    (s := afterWrite reg data a1 (afterRead (some w) a0 (started i s))) rfl
  have ha4 := actionAt_intensity_write hcode
    (s := afterRead none a2 (afterWrite reg data a1 (afterRead (some w) a0 (started i s)))) rfl
  refine ⟨_, _, _, _, _, exec_start hw hb,
    hs1.busRequest_of_actionAt ha1, hs1.exec_of_read ha1 (phaseReg_ne_chipCfg _ _) hans h0,
    hs2.busRequest_of_actionAt ha2, hs2.exec_of_write ha2 (congrArg List.tail hans) h1,
    hs3.busRequest_of_actionAt ha3, hs3.exec_of_read ha3 (intensityReg_ne_chipCfg _)
      (congrArg (·.tail.tail) hans) h2,
    hs4.busRequest_of_actionAt ha4, hs4.exec_of_write ha4 (congrArg (·.tail.tail.tail) hans) h3,
    hs5.busRequest_of_last hlast.symm, (exec_of_last hs5.busy hlast.symm).trans ?_⟩
  simp [complete, afterRead, afterWrite, started, startOperation, latchCommand, hresult, statusOk, hans, hb, w]

end AnalogWriteRule

/-- Settles O21: the rule of R172, its registers and nibble in numbers. -/
theorem analogWriteRunsToCompletion : Obligations.AnalogWriteRunsToCompletion := by
  intro pin x s a0 a1 a2 a3 rest hp hb hans hok
  have h := exists_completion_of_analogWriteCode (i := .analogWrite pin x) rfl (validPin_of_lt hp) (fun _ => rfl) hb
    hans hok
  rwa [phaseReg_pinIndex hp, intensityReg_pinIndex hp, mask_pinIndex hp, phaseSelect_clamp_eq] at h

/-- Settles O22: the rule of R172 with intensity 15 or 0, whose nibble is 15 either way. -/
theorem digitalWriteRunsToCompletion : Obligations.DigitalWriteRunsToCompletion := by
  intro pin b s a0 a1 a2 a3 rest hp hb hans hok
  have h := exists_completion_of_analogWriteCode (i := .digitalWrite pin b) rfl (validPin_of_lt hp) (fun _ => rfl) hb
    hans hok
  rwa [phaseReg_pinIndex hp, intensityReg_pinIndex hp, mask_pinIndex hp, phaseSelect_clamp_dwriteMap] at h

end Sys2Proof.Machine

/-! ## digitalWrite is analogWrite of 15 or 0 (R174): two commands of one operation rule, in lockstep -/

namespace Sys2Proof.Machine

variable {s s' : State} {i i' : Instr}

/-- The state with the latches `op` and `arg` replaced. -/
def relatch (op arg : Byte) (s : State) : State := { s with op := op, arg := arg }

/-- `s'` is `s` but for the latches `op` and `arg`, and the commands in flight, if any, have one operation rule. -/
structure SameRule (s s' : State) : Prop where
  alone : s.outside = []
  latches : ∃ op arg, s' = relatch op arg s
  operation : s.busy = true → ∃ i i', InFlight i s ∧ InFlight i' s' ∧ microcode i' = microcode i ∧
    resultOf i' = resultOf i ∧ s.step.toNat ≤ transactionCount i

theorem transactionNow_congr (ho : s'.outside = s.outside) (ha : s'.answers = s.answers)
    (hr : busRequest s' = busRequest s) : transactionNow s' = transactionNow s := by
  simp only [transactionNow, ho, ha, hr]

/-- The IDLE blocks wait alike, and the word that they accept overwrites the latches. -/
theorem SameRule.exists_idle_step (h : SameRule s s') (hb : s.busy = false) :
    ∃ t t', step s = .next t ∧ step s' = .next t' ∧ SameRule t t' := by
  have hsame := h
  obtain ⟨ho, ⟨op, arg, rfl⟩, -⟩ := h
  have ho' : (relatch op arg s).outside = [] := ho
  have hb' : (relatch op arg s).busy = false := hb
  cases hc : s.commands with
  | nil =>
    exact ⟨_, _, (step_of_alone ho).trans (blockTurn_of_waiting hb hc),
      (step_of_alone ho').trans (blockTurn_of_waiting hb' hc), hsame⟩
  | cons c cs =>
    refine ⟨_, _, step_of_presented ho hb hc, step_of_presented ho' hb' hc, ?_⟩
    cases hd : decode c with
    | error e =>
      have he := (decode_eq_error_iff c e).1 hd
      rw [accept_of_error he, accept_of_error he]
      exact ⟨ho, ⟨_, _, rfl⟩, nofun⟩
    | ok i =>
      obtain ⟨hw, rfl⟩ := decode_eq_ok_iff.1 hd
      have hlegal := acceptanceCheck_encode hw
      rw [accept_of_legal hlegal, accept_of_legal hlegal]
      have hs := inFlight_started hw s
      exact ⟨ho, ⟨_, _, rfl⟩, fun _ => ⟨i, i, hs, hs, rfl, rfl, Nat.zero_le _⟩⟩

/-- Two BUSY blocks with one operation rule take the same transaction, or complete alike. -/
theorem SameRule.exists_busy_step (h : SameRule s s') (hb : s.busy = true) :
    (∃ t t', step s = .next t ∧ step s' = .next t' ∧ SameRule t t') ∧ busRequest s' = busRequest s := by
  have hsame := h
  obtain ⟨ho, ⟨op, arg, rfl⟩, hop⟩ := h
  obtain ⟨i, i', hs, hs', hcode, hresult, hle⟩ := hop hb
  have hstep := hs.step_eq_exec ho
  have hstep' := hs'.step_eq_exec ho
  rcases hle.lt_or_eq with hk | hk
  · obtain ⟨act, ha⟩ := exists_actionAt hk
    have ha' : actionAt i' (relatch op arg s) = some act := by
      rw [actionAt, hcode]
      exact ha
    obtain ⟨hexec, hm⟩ := exec_of_actionAt hs.busy ha
    rw [hexec] at hstep
    rw [(exec_of_actionAt hs'.busy ha').1] at hstep'
    refine ⟨?_, (hs'.busRequest_of_actionAt ha').trans (hs.busRequest_of_actionAt ha).symm⟩
    cases hans : s.answers with
    | nil =>
      exact ⟨_, _, hstep.trans (transact_of_unanswered hm hans), hstep'.trans (transact_of_unanswered hm hans),
        hsame⟩
    | cons ans rest =>
      cases hok : ans.ok with
      | false =>
        exact ⟨_, _, hstep.trans (transact_of_failed hm hans hok), hstep'.trans (transact_of_failed hm hans hok),
          ho, ⟨op, arg, rfl⟩, nofun⟩
      | true =>
        refine ⟨_, _, hstep.trans (transact_of_ok hm hans hok), hstep'.trans (transact_of_ok hm hans hok),
          ho, ⟨op, arg, rfl⟩, fun _ => ⟨i, i', ⟨hs.busy, hs.word⟩, ⟨hs'.busy, hs'.word⟩, hcode, hresult, ?_⟩⟩
        obtain ⟨action, hget, -⟩ := exists_of_actionAt ha
        exact (step_add_one_toNat hget).trans_le hk
  · have hk' : s.step.toNat = transactionCount i' := hk.trans (congrArg List.length hcode).symm
    refine ⟨⟨_, _, hstep.trans (exec_of_last hs.busy hk), hstep'.trans (exec_of_last hs'.busy hk'),
      ho, ⟨op, arg, ?_⟩, nofun⟩, (hs'.busRequest_of_last hk').trans (hs.busRequest_of_last hk).symm⟩
    rw [hresult]
    rfl

theorem SameRule.exists_step (h : SameRule s s') :
    ∃ t t', step s = .next t ∧ step s' = .next t' ∧ SameRule t t' ∧ transactionNow s' = transactionNow s := by
  suffices hboth : (∃ t t', step s = .next t ∧ step s' = .next t' ∧ SameRule t t') ∧ busRequest s' = busRequest s by
    obtain ⟨⟨t, t', hs, hs', ht⟩, hr⟩ := hboth
    obtain ⟨-, ⟨op, arg, rfl⟩, -⟩ := h
    exact ⟨t, t', hs, hs', ht, transactionNow_congr rfl rfl hr⟩
  cases hb : s.busy with
  | true => exact h.exists_busy_step hb
  | false =>
    refine ⟨h.exists_idle_step hb, ?_⟩
    obtain ⟨-, ⟨op, arg, rfl⟩, -⟩ := h
    exact (busRequest_of_idle (s := relatch op arg s) hb).trans (busRequest_of_idle hb).symm

/-- Runs of any length in lockstep. -/
theorem SameRule.run (h : SameRule s s') (n : Nat) :
    transcript n s' = transcript n s ∧
      ∃ t t', Sys2Proof.core.run n s = .next t ∧ Sys2Proof.core.run n s' = .next t' ∧ SameRule t t' := by
  induction n generalizing s s' with
  | zero => exact ⟨rfl, s, s', rfl, rfl, h⟩
  | succ n ih =>
    obtain ⟨t, t', hs, hs', ht, hnow⟩ := h.exists_step
    rw [transcript_of_step hs, transcript_of_step hs', run_of_step hs, run_of_step hs', hnow, (ih ht).1]
    exact ⟨rfl, (ih ht).2⟩

theorem dwriteMap_eq (b : Byte) : dwriteMap b = if b = 0#8 then 0#8 else 15#8 := by
  by_cases hb : b = 0#8 <;> simp [dwriteMap, hb]

/-- R173: after acceptance the two commands differ in the latched word only. -/
theorem sameRule_started {pin b : Byte} {c : CmdWord} {cs : List CmdWord} (hp : pin.toNat < 16) (ho : s.outside = [])
    (hc : s.commands = c :: cs) (c' : CmdWord) :
    SameRule (started (.digitalWrite pin b) s)
      (started (.analogWrite pin (dwriteMap b)) { s with commands := c' :: cs }) := by
  have hw : (Instr.digitalWrite pin b).wellFormed = true := validPin_of_lt hp
  have hw' : (Instr.analogWrite pin (dwriteMap b)).wellFormed = true := validPin_of_lt hp
  refine ⟨ho, ⟨0x05#8, dwriteMap b, ?_⟩,
    fun _ => ⟨_, _, inFlight_started hw _, inFlight_started hw' _, rfl, rfl, Nat.zero_le _⟩⟩
  simp [started, startOperation, latchCommand, relatch, Instr.opcode, Instr.pinOperand, Instr.argOperand, hc]

/-- Settles O31: the first step accepts either word, and from there on the two blocks have one operation rule. -/
theorem digitalWriteIsAnalogWriteOf15Or0 : Obligations.DigitalWriteIsAnalogWriteOf15Or0 := by
  intro pin b s s' cs hp hb ho hc hs' n
  rw [← dwriteMap_eq] at hs'
  cases n with
  | zero => exact ⟨rfl, s, s', rfl, rfl, by rw [hs']; exact ⟨rfl, rfl, rfl, rfl⟩⟩
  | succ n =>
    have hb' : s'.busy = false := by rw [hs']; exact hb
    have ho' : s'.outside = [] := by rw [hs']; exact ho
    have hc' : s'.commands = packWord 0x05#8 pin (dwriteMap b) :: cs := by rw [hs']
    have hstep := step_start (i := .digitalWrite pin b) (validPin_of_lt hp) hb ho hc
    have hstep' := step_start (i := .analogWrite pin (dwriteMap b)) (validPin_of_lt hp) hb' ho' hc'
    have hsame := sameRule_started (b := b) hp ho hc (packWord 0x05#8 pin (dwriteMap b))
    rw [← hs'] at hsame
    obtain ⟨htr, t, t', hrun, hrun', -, ⟨op, arg, rfl⟩, -⟩ := hsame.run n
    refine ⟨?_, t, _, (run_of_step hstep n).trans hrun, (run_of_step hstep' n).trans hrun', rfl, rfl, rfl, rfl⟩
    rw [transcript_of_step hstep, transcript_of_step hstep', htr,
      transactionNow_of_no_request ho (busRequest_of_idle hb),
      transactionNow_of_no_request ho' (busRequest_of_idle hb')]

end Sys2Proof.Machine

/-! ## The chip's registers after an analogWrite (R84, R175, R178) -/

namespace Sys2Proof.Machine

theorem phaseReg_ne_intensityReg (p : PinIndex) : (phaseReg p 0#1).toNat ≠ (intensityReg p).toNat := by
  rw [toNat_phaseReg, toNat_intensityReg, if_pos rfl]
  omega

theorem Memory.read_set_same {a : Byte} (ha : isMapped a = true) (m : Memory) (d : Byte) :
    (m.set a d).read a.toNat = some d := by
  simp [Memory.read_set, ha]

theorem Memory.read_set_other {a : Byte} {r : Nat} (hr : r ≠ a.toNat) (m : Memory) (d : Byte) :
    (m.set a d).read r = m.read r := by
  simp [Memory.read_set, hr]

section Quiet

variable {i : Instr} {s : State} {ans bad : BusAnswer} {a d : Byte} {w : Option Nibble}

theorem afterRead_chip_of_quiet (hside : ans.side = []) (w : Option Nibble) (s : State) :
    (afterRead w ans s).chip = s.chip := by
  simp [afterRead, hside, Memory.setAll]

theorem afterWrite_chip_of_quiet (hside : ans.side = []) (a d : Byte) (s : State) :
    (afterWrite a d ans s).chip = s.chip.set a d := by
  simp [afterWrite, hside, Memory.setAll]

theorem afterFailure_chip_of_read (h : actionAt i s = some { tx := .read a, latchV := w }) (hbad : bad.ok = false) :
    (afterFailure i s bad).chip = s.chip := by
  simp [afterFailure_of_actionAt h, chipAfter_failed_read _ _ hbad]

theorem afterFailure_chip_of_write (h : actionAt i s = some { tx := .write a d }) (hbad : bad.ok = false) :
    (afterFailure i s bad).chip = if bad.latched = true then s.chip.set a d else s.chip := by
  simp [afterFailure_of_actionAt h, chipAfter_failed_write _ _ _ hbad]

end Quiet

/-- R175's table: the registers `m` after an analogWrite whose transactions succeeded with the given quiet answers and
then failed; a failed write is latched or not (R84.2). -/
def failedAnalogWriteChip (p : PinIndex) (x : Byte) (m : Memory) (latched : Bool) : List BusAnswer → Memory
  | [] => m
  | [a0] =>
    if latched then m.set (phaseReg p 0#1) (writeBit a0.rdata (mask p) (phaseSelect (clamp x)).1) else m
  | [a0, _] => m.set (phaseReg p 0#1) (writeBit a0.rdata (mask p) (phaseSelect (clamp x)).1)
  | a0 :: _ :: a2 :: _ =>
    let corrected := m.set (phaseReg p 0#1) (writeBit a0.rdata (mask p) (phaseSelect (clamp x)).1)
    if latched then corrected.set (intensityReg p) (nibbleMerge a2.rdata p (phaseSelect (clamp x)).2) else corrected

section FailedAnalogWrite

variable {pin x : Byte} {s : State} {oks : List BusAnswer} {bad : BusAnswer}

/-- A failed analogWrite leaves the chip as in R175's table. -/
theorem chip_of_failed_analogWrite (hlt : oks.length < 4) (hoks : ∀ a ∈ oks, a.ok = true ∧ a.side = [])
    (hbad : bad.ok = false) :
    (afterFailure (.analogWrite pin x) (oks.foldl (afterOk (.analogWrite pin x)) (started (.analogWrite pin x) s))
      bad).chip = failedAnalogWriteChip (pinIndex pin) x s.chip bad.latched oks := by
  have hcode : microcode (.analogWrite pin x) = analogWriteCode (pinIndex pin) x := rfl
  have hphase := phaseReg_ne_chipCfg (pinIndex pin) 0#1
  have hintensity := intensityReg_ne_chipCfg (pinIndex pin)
  have ha1 := actionAt_phase_read hcode (s := started (.analogWrite pin x) s) rfl
  match oks with
  | [] => exact afterFailure_chip_of_read ha1 hbad
  | [a0] =>
    obtain ⟨h0, hq0⟩ := hoks a0 (by simp)
    rw [List.foldl_cons, List.foldl_nil, afterOk_of_read ha1 hphase h0,
      afterFailure_chip_of_write (actionAt_phase_write hcode rfl) hbad, afterRead_chip_of_quiet hq0]
    rfl
  | [a0, a1] =>
    obtain ⟨h0, hq0⟩ := hoks a0 (by simp)
    obtain ⟨h1, hq1⟩ := hoks a1 (by simp)
    rw [List.foldl_cons, List.foldl_cons, List.foldl_nil, afterOk_of_read ha1 hphase h0,
      afterOk_of_write (actionAt_phase_write hcode rfl) h1,
      afterFailure_chip_of_read (actionAt_intensity_read hcode rfl) hbad, afterWrite_chip_of_quiet hq1,
      afterRead_chip_of_quiet hq0]
    rfl
  | [a0, a1, a2] =>
    obtain ⟨h0, hq0⟩ := hoks a0 (by simp)
    obtain ⟨h1, hq1⟩ := hoks a1 (by simp)
    obtain ⟨h2, hq2⟩ := hoks a2 (by simp)
    rw [List.foldl_cons, List.foldl_cons, List.foldl_cons, List.foldl_nil, afterOk_of_read ha1 hphase h0,
      afterOk_of_write (actionAt_phase_write hcode rfl) h1,
      afterOk_of_read (actionAt_intensity_read hcode rfl) hintensity h2,
      afterFailure_chip_of_write (actionAt_intensity_write hcode rfl) hbad, afterRead_chip_of_quiet hq2,
      afterWrite_chip_of_quiet hq1, afterRead_chip_of_quiet hq0]
    rfl

end FailedAnalogWrite

section Table

variable (p : PinIndex) (x : Byte) (m : Memory) (latched : Bool)

theorem read_failedAnalogWriteChip_other {r : Nat} (oks : List BusAnswer) (hphase : r ≠ (phaseReg p 0#1).toNat)
    (hintensity : r ≠ (intensityReg p).toNat) : (failedAnalogWriteChip p x m latched oks).read r = m.read r := by
  match oks with
  | [] => rfl
  | [_, _] => exact Memory.read_set_other hphase m _
  | [_] => cases latched <;> simp [failedAnalogWriteChip, Memory.read_set_other hphase]
  | _ :: _ :: _ :: _ =>
    cases latched <;>
      simp [failedAnalogWriteChip, Memory.read_set_other hphase, Memory.read_set_other hintensity]

theorem read_failedAnalogWriteChip_intensity_of_le {oks : List BusAnswer} (hle : oks.length ≤ 2) :
    (failedAnalogWriteChip p x m latched oks).read (intensityReg p).toNat = m.read (intensityReg p).toNat := by
  have hphase := (phaseReg_ne_intensityReg p).symm
  match oks with
  | [] => rfl
  | [_, _] => exact Memory.read_set_other hphase m _
  | [_] => cases latched <;> simp [failedAnalogWriteChip, Memory.read_set_other hphase]

theorem read_failedAnalogWriteChip_phase (a0 : BusAnswer) (more : List BusAnswer) :
    (failedAnalogWriteChip p x m latched (a0 :: more)).read (phaseReg p 0#1).toNat =
      if more = [] ∧ latched = false then m.read (phaseReg p 0#1).toNat
      else some (writeBit a0.rdata (mask p) (phaseSelect (clamp x)).1) := by
  have hphase := Memory.read_set_same (phaseReg_mapped p 0#1)
  match more with
  | [] => cases latched <;> simp [failedAnalogWriteChip, hphase]
  | [_] => simp [failedAnalogWriteChip, hphase]
  | _ :: _ :: _ =>
    cases latched <;>
      simp [failedAnalogWriteChip, hphase, Memory.read_set_other (phaseReg_ne_intensityReg p)]

theorem read_failedAnalogWriteChip_intensity (a0 a1 a2 : BusAnswer) :
    (failedAnalogWriteChip p x m latched [a0, a1, a2]).read (intensityReg p).toNat =
      if latched = true then some (nibbleMerge a2.rdata p (phaseSelect (clamp x)).2)
      else m.read (intensityReg p).toNat := by
  cases latched with
  | true => exact Memory.read_set_same (intensityReg_mapped p) _ _
  | false => exact Memory.read_set_other (phaseReg_ne_intensityReg p).symm m _

end Table

/-- Settles O43: the run ends in R175's table, whose entries are read off. -/
theorem failedAnalogWriteLeavesAPartialState : Obligations.FailedAnalogWriteLeavesAPartialState := by
  intro pin x s cs oks rest bad hp hb ho hc hans hlt hoks hbad p phase intensity
  have hrun := run_of_failed_command (i := .analogWrite pin x) (validPin_of_lt hp) hb ho hc hans hlt
    (fun a ha => (hoks a ha).1) hbad
  have hport := responsePort_of_failed_command (i := .analogWrite pin x) s oks bad hlt
  refine ⟨_, hrun, hport, ?_⟩
  rw [chip_of_failed_analogWrite hlt hoks hbad]
  refine ⟨fun r => read_failedAnalogWriteChip_other p x s.chip bad.latched oks, fun h0 => ?_,
    read_failedAnalogWriteChip_intensity_of_le p x s.chip bad.latched, ?_, ?_⟩
  · rw [List.length_eq_zero_iff.1 h0]
    rfl
  · rintro a0 more rfl
    exact read_failedAnalogWriteChip_phase p x s.chip bad.latched a0 more
  · rintro a0 a1 a2 rfl
    exact read_failedAnalogWriteChip_intensity p x s.chip bad.latched a0 a1 a2

end Sys2Proof.Machine

/-! ## Pin operations in the reference environment (R80, R170, R178) -/

namespace Sys2Proof.Machine

variable {s : State} {i : Instr} {e : RefEnv} {act : TxAction} {a d : Byte} {w : Option Nibble}

theorem refRun_start (hw : i.wellFormed = true) (hb : s.busy = false) (ho : s.outside = [])
    (hc : s.commands = [encode i]) (e : RefEnv) (n : Nat) : refRun (n + 1) e s = refRun n e (started i s) :=
  refRun_of_refStep ((refStep_of_no_request e ho (busRequest_of_idle hb)).trans
    (congrArg _ (step_start hw hb ho hc))) n

/-- The state after a transaction that the reference environment answers with success (R80.1–4). -/
def refSucceed (e : RefEnv) (act : TxAction) (s : State) : State :=
  advance act (refAnswer e s.chip (act.tx.request s.chipAddr))
    (answered act (refAnswer e s.chip (act.tx.request s.chipAddr)) [] s)

theorem refAnswer_ok (he : e.index ∉ e.faults) (chip : Memory) (r : BusRequest) : (refAnswer e chip r).ok = true := by
  simp [refAnswer, he]

theorem refSucceed_read_chip (w : Option Nibble) (a : Byte) (s : State) :
    (refSucceed e { tx := .read a, latchV := w } s).chip = s.chip := by
  simp [refSucceed, chipAfter, refAnswer, Memory.setAll]

theorem refSucceed_write_chip (he : e.index ∉ e.faults) (a d : Byte) (s : State) :
    (refSucceed e { tx := .write a d } s).chip = s.chip.set a d := by
  simp [refSucceed, chipAfter, refAnswer, Memory.setAll, he]

namespace InFlight

variable (h : InFlight i s)
include h

theorem refSucceed (e : RefEnv) (act : TxAction) : InFlight i (refSucceed e act s) := ⟨h.busy, h.word⟩

variable (ho : s.outside = [])
include ho

theorem refStep_of_ok (ha : actionAt i s = some act) (he : e.index ∉ e.faults) :
    refStep e s = ({ e with index := e.index + 1 }, .next (Machine.refSucceed e act s)) := by
  have hanswered : InFlight i { s with answers := [refAnswer e s.chip (act.tx.request s.chipAddr)] } :=
    ⟨h.busy, h.word⟩
  obtain ⟨hexec, hm⟩ := exec_of_actionAt hanswered.busy ha
  have hstep := (hanswered.step_eq_exec ho).trans (hexec.trans (transact_of_ok hm rfl (refAnswer_ok he _ _)))
  simp only [refStep, h.busRequest_of_actionAt ha]
  rw [← ho, hstep]
  rfl

theorem refRun_of_last (hk : s.step.toNat = transactionCount i) (e : RefEnv) :
    refRun 1 e s = (e, .next (complete (resultOf i s.rd) s)) := by
  have hstep := refStep_of_no_request e ho (h.busRequest_of_last hk)
  rw [h.step_eq_exec ho, exec_of_last h.busy hk] at hstep
  exact refRun_of_refStep hstep 0

/-- A read-modify-write pair: the register then holds the byte `d` that the operation makes of the byte it reads. -/
theorem exists_refRun_of_pair {n : Nat} (hread : actionAt i s = some { tx := .read a, latchV := w })
    (hwrite : ∀ t : State, t.step = s.step + 1#3 → t.rd = refReadByte e s.chip a → t.v = w.getD s.v →
      actionAt i t = some { tx := .write a d })
    (he : noFaults e (n + 2)) :
    noFaults { e with index := e.index + 2 } n ∧
    ∃ t, refRun (n + 2 + 1) e s = refRun (n + 1) { e with index := e.index + 2 } t ∧ InFlight i t ∧ t.outside = [] ∧
      t.step = s.step + 1#3 + 1#3 ∧ t.v = w.getD s.v ∧ t.chip = s.chip.set a d := by
  obtain ⟨h0, he⟩ := noFaults_succ he
  obtain ⟨h1, he⟩ := noFaults_succ he
  have hmid := h.refSucceed e { tx := .read a, latchV := w }
  have hfirst := h.refStep_of_ok ho hread h0
  have hsecond := hmid.refStep_of_ok ho (hwrite (Machine.refSucceed e _ s) rfl rfl rfl) h1
  refine ⟨he, _, (refRun_of_refStep hfirst _).trans (refRun_of_refStep hsecond _),
    hmid.refSucceed _ _, ho, rfl, rfl, ?_⟩
  rw [refSucceed_write_chip h1, refSucceed_read_chip]

end InFlight

/-- Settles O48: the pair of R170 writes the byte read with the pin's bit replaced. -/
theorem pinModeChangesOnlyThePinsBit : Obligations.PinModeChangesOnlyThePinsBit := by
  intro pin mode e s hp hb ho hc he reg
  have hw : (Instr.pinMode pin mode).wellFormed = true := validPin_of_lt hp
  have hreg : configReg (pinIndex pin) = reg := configReg_pinIndex hp
  obtain ⟨-, t, hpair, ht, hto, hk, -, hchip⟩ :=
    (inFlight_started hw s).exists_refRun_of_pair (n := 0) ho (actionAt_config_read rfl)
      (fun t hk hrd _ => hrd ▸ actionAt_config_write hk) he
  have hlast := ht.refRun_of_last hto (by rw [hk]; rfl) { e with index := e.index + 2 }
  have hrun := (refRun_start hw hb ho hc e 3).trans (hpair.trans hlast)
  rw [hreg] at hchip
  obtain ⟨hown, hothers⟩ := writeBitChangesOneBit (refReadByte e s.chip reg) (pinIndex pin) (modeBit mode)
  rw [toNat_bitpos_pinIndex hp] at hown hothers
  refine ⟨_, _, _, hrun, rfl, ?_, hown.trans (modeBit_eq_decide mode), hothers, fun r hr => ?_⟩
  · rw [complete_chip, hchip]
    exact Memory.read_set_same (hreg ▸ configReg_mapped _) _ _
  · rw [complete_chip, hchip]
    exact Memory.read_set_other hr _ _

/-! ### The chip after a successful analogWrite -/

/-- A write to another register does not change what a read returns. -/
theorem refReadByte_set_other {b : Byte} (hne : a.toNat ≠ b.toNat) (m : Memory) (d : Byte) (k : Nat) :
    refReadByte { e with index := k } (m.set b d) a = refReadByte e m a := by
  simp only [refReadByte, Memory.read_set_other hne]

theorem nibbleMerge_own (r : Byte) (p : PinIndex) (w : Nibble) :
    (nibbleMerge r p w).extractLsb' (4 * (p.toNat % 2)) 4 = w := by
  obtain ⟨heven, hodd⟩ := nibbleMergeKeepsTheOtherNibble r p w
  rcases Nat.mod_two_eq_zero_or_one p.toNat with hp | hp <;> rw [hp]
  · exact (heven hp).2
  · exact (hodd hp).2

theorem nibbleMerge_paired (r : Byte) (p : PinIndex) (w : Nibble) :
    (nibbleMerge r p w).extractLsb' (4 * (1 - p.toNat % 2)) 4 = r.extractLsb' (4 * (1 - p.toNat % 2)) 4 := by
  obtain ⟨heven, hodd⟩ := nibbleMergeKeepsTheOtherNibble r p w
  rcases Nat.mod_two_eq_zero_or_one p.toNat with hp | hp <;> rw [hp]
  · exact (heven hp).1
  · exact (hodd hp).1

/-- The two pairs of R172, each on the byte that its register held before the command. -/
theorem exists_refRun_analogWrite {pin x : Byte} (hp : pin.toNat < 16) (hb : s.busy = false) (ho : s.outside = [])
    (hc : s.commands = [packWord 0x05#8 pin x]) (he : noFaults e 4) :
    let p := pinIndex pin
    ∃ e' t, refRun 6 e s = (e', .next t) ∧ responsePort t = some ⟨0#3, false, 0#3⟩ ∧
      t.chip = (s.chip.set (phaseReg p 0#1)
          (writeBit (refReadByte e s.chip (phaseReg p 0#1)) (mask p) (phaseSelect (clamp x)).1)).set
        (intensityReg p) (nibbleMerge (refReadByte e s.chip (intensityReg p)) p (phaseSelect (clamp x)).2) := by
  intro p
  have hw : (Instr.analogWrite pin x).wellFormed = true := validPin_of_lt hp
  have hcode : microcode (.analogWrite pin x) = analogWriteCode p x := rfl
  obtain ⟨he, t, hphase, ht, hto, hk, hv, hchip⟩ :=
    (inFlight_started hw s).exists_refRun_of_pair (n := 2) ho (actionAt_phase_read hcode rfl)
      (fun t hk hrd _ => hrd ▸ actionAt_phase_write hcode hk) he
  obtain ⟨-, u, hintensity, hu, huo, huk, -, huchip⟩ :=
    ht.exists_refRun_of_pair (n := 0) hto (actionAt_intensity_read hcode hk)
      (fun u huk hrd huv => by
        rw [actionAt_intensity_write hcode (by rw [huk, hk]; rfl), hrd, huv]) he
  have hlast := hu.refRun_of_last huo (by rw [huk, hk]; rfl) { e with index := e.index + 2 + 2 }
  refine ⟨_, _, (refRun_start hw hb ho hc e 5).trans (hphase.trans (hintensity.trans hlast)), rfl, ?_⟩
  rw [complete_chip, huchip, hchip, hv, refReadByte_set_other (phaseReg_ne_intensityReg p).symm]
  rfl

/-- Settles O46: the phase bit and the nibble of the two bytes written. -/
theorem analogWritePostState : Obligations.AnalogWritePostState := by
  intro pin x e s hp hb ho hc he phase intensity
  obtain ⟨e', t, hrun, hport, hchip⟩ := exists_refRun_analogWrite hp hb ho hc he
  rw [phaseSelect_clamp_eq] at hchip
  have hread (r : Nat) := congrArg (Memory.read · r) hchip
  have hph := (hread phase.toNat).trans ((Memory.read_set_other (phaseReg_ne_intensityReg _) _ _).trans
    (Memory.read_set_same (phaseReg_mapped _ _) _ _))
  have hnib := (hread intensity.toNat).trans (Memory.read_set_same (intensityReg_mapped _) _ _)
  obtain ⟨hown, hothers⟩ := writeBitChangesOneBit (refReadByte e s.chip phase) (pinIndex pin) (decide (x ≠ 0#8))
  have hnibble := nibbleMerge_own (refReadByte e s.chip intensity) (pinIndex pin)
    (BitVec.ofNat 4 (if x = 0#8 then 15 else min x.toNat 15))
  have hpaired := nibbleMerge_paired (refReadByte e s.chip intensity) (pinIndex pin)
    (BitVec.ofNat 4 (if x = 0#8 then 15 else min x.toNat 15))
  rw [toNat_bitpos_pinIndex hp] at hown hothers
  rw [toNat_pinIndex_of_lt hp] at hnibble hpaired
  refine ⟨e', t, _, _, hrun, hport, hph, hnib, fun hx => ⟨hown.trans (by simp [hx]), hnibble.trans (by simp [hx])⟩,
    fun hx => ⟨hown.trans (by simp [hx]), ?_⟩, hothers, hpaired,
    fun r hr hr' => (hread r).trans ((Memory.read_set_other hr' _ _).trans (Memory.read_set_other hr _ _))⟩
  rw [hnibble, if_neg hx, BitVec.toNat_ofNat]
  omega

end Sys2Proof.Machine

/-! # Proofs of the interrupt-control statements (43_interrupt_ops.md) -/

/-! ## The two commands of one operation rule (R200, R201), and the acknowledging pair (R202, R203) -/

namespace Sys2Proof.Machine

/-- enableInterrupt (R200) for `true`, disableInterrupt (R201) for `false`: the commands that write bit 3 of 0x0F. -/
def interruptControl : Bool → Instr
  | true => .enableInterrupt
  | false => .disableInterrupt

theorem interruptControl_wellFormed (b : Bool) : (interruptControl b).wellFormed = true := by
  cases b <;> rfl

theorem encode_interruptControl (b : Bool) :
    encode (interruptControl b) = if b then 0x060000#24 else 0x070000#24 := by
  cases b <;> rfl

theorem microcode_interruptControl (b : Bool) : microcode (interruptControl b) = writeInte b ++ ackReads := by
  cases b <;> rfl

theorem transactionCount_interruptControl (b : Bool) : transactionCount (interruptControl b) = 4 := by
  cases b <;> rfl

theorem resultOf_interruptControl (b : Bool) (rd : Byte) : resultOf (interruptControl b) rd = false := by
  cases b <;> rfl

/-- After the read-modify-write the acknowledging pair is what is left of the operation rule. -/
theorem drop_two_interruptControl (b : Bool) : (microcode (interruptControl b)).drop 2 = ackReads := by
  cases b <;> rfl

variable {s : State} {i : Instr} {k : Nat} {b : Bool}

/-! ### The actions by `step` -/

theorem actionAt_chipCfg_read (hk : s.step = 0#3) :
    actionAt (interruptControl b) s = some { tx := .read chipCfg } := by
  rw [actionAt, microcode_interruptControl, hk]
  rfl

theorem actionAt_chipCfg_write (hk : s.step = 1#3) :
    actionAt (interruptControl b) s = some { tx := .write chipCfg (writeBit s.rd inteMask b) } := by
  rw [actionAt, microcode_interruptControl, hk]
  rfl

section AckReads

variable (hack : (microcode i).drop k = ackReads)
include hack

theorem actionAt_in0_read (hk : s.step.toNat = k) : actionAt i s = some { tx := .read in0 } := by
  rw [actionAt, hk, (getElem?_of_drop_eq_cons hack).1]
  rfl

theorem actionAt_in1_read (hk : s.step.toNat = k + 1) : actionAt i s = some { tx := .read in1, acks := true } := by
  obtain ⟨-, hsecond⟩ := getElem?_of_drop_eq_cons hack
  rw [actionAt, hk, (getElem?_of_drop_eq_cons hsecond).1]
  rfl

/-- The acknowledging pair ends the operation. -/
theorem transactionCount_of_ackReads : transactionCount i = k + 1 + 1 := by
  have hlen : (microcode i).length - k = 2 := List.length_drop.symm.trans (congrArg List.length hack)
  have hcount : transactionCount i = (microcode i).length := rfl
  omega

/-- `step` does not wrap in the acknowledging pair. -/
theorem ackReads_step (hk : s.step.toNat = k) :
    (s.step + 1#3).toNat = k + 1 ∧ (s.step + 1#3 + 1#3).toNat = k + 1 + 1 := by
  have hcount := transactionCount_of_ackReads hack
  have hle := transactionCount_le i
  simp only [BitVec.toNat_add, BitVec.toNat_ofNat, hk]
  omega

end AckReads

end Sys2Proof.Machine

/-! ## The transactions of interrupt control, whole (R33, R84, R203, R205) -/

namespace Sys2Proof.Machine

variable {i : Instr} {s : State} {act : TxAction} {ans bad : BusAnswer} {a d : Byte}

/-- The state after a successful read of 0x0F, which may set the pending state but not clear it (R205; log 12). -/
def afterChipCfgRead (ans : BusAnswer) (s : State) : State :=
  { afterRead none ans s with intPending := s.intPending || ans.pend }

/-- The state after the successful second read of an acknowledging pair, which clears the pending state (R203). -/
def afterAcknowledgement (ans : BusAnswer) (s : State) : State :=
  { afterRead none ans s with intPending := false }

theorem afterOk_of_chipCfg_read (h : actionAt i s = some { tx := .read chipCfg }) (hok : ans.ok = true) :
    afterOk i s ans = afterChipCfgRead ans s := by
  have hinput : isInputReg chipCfg = false := rfl
  simp [afterOk_of_actionAt h, advance, answered, chipAfter, pendingAfter, rdAfter, hok, hinput, afterChipCfgRead,
    afterRead]

theorem afterOk_of_in1_read (h : actionAt i s = some { tx := .read in1, acks := true }) (hok : ans.ok = true) :
    afterOk i s ans = afterAcknowledgement ans s := by
  have hinput : isInputReg in1 = true := rfl
  simp [afterOk_of_actionAt h, advance, answered, chipAfter, pendingAfter, rdAfter, hok, hinput,
    afterAcknowledgement, afterRead]

theorem afterChipCfgRead_chip_of_quiet (hside : ans.side = []) (s : State) :
    (afterChipCfgRead ans s).chip = s.chip :=
  afterRead_chip_of_quiet hside none s

/-- A failed read leaves the chip, and the pending state as the environment draws it (R84.1). -/
theorem afterFailure_of_read (h : actionAt i s = some act) (htx : act.tx = .read a) (hbad : bad.ok = false) :
    (afterFailure i s bad).chip = s.chip ∧
      (afterFailure i s bad).intPending = if a = 0x0F#8 then s.intPending || bad.pend else bad.pend := by
  rw [afterFailure_of_actionAt h]
  refine ⟨?_, pendingAfter_failed_read s.intPending htx hbad⟩
  rw [raise_chip, answered_chip, htx, chipAfter_failed_read a s.chip hbad]

/-- A failed write is latched or not, and leaves the pending state (R84.2, R205). -/
theorem afterFailure_of_write (h : actionAt i s = some { tx := .write a d }) (hbad : bad.ok = false) :
    (afterFailure i s bad).chip = (if bad.latched = true then s.chip.set a d else s.chip) ∧
      (afterFailure i s bad).intPending = s.intPending := by
  refine ⟨afterFailure_chip_of_write h hbad, ?_⟩
  rw [afterFailure_of_actionAt h]
  exact pendingAfter_write (act := { tx := .write a d }) bad s.intPending rfl

theorem InFlight.afterChipCfgRead (h : InFlight i s) (ans : BusAnswer) : InFlight i (afterChipCfgRead ans s) :=
  ⟨h.busy, h.word⟩

theorem InFlight.afterAcknowledgement (h : InFlight i s) (ans : BusAnswer) :
    InFlight i (afterAcknowledgement ans s) :=
  ⟨h.busy, h.word⟩

end Sys2Proof.Machine

/-! ## Interrupt control, from acceptance to completion (R200–R203) -/

namespace Sys2Proof.Machine

variable {s : State} {i : Instr} {a b : BusAnswer} {rest : List BusAnswer}

/-- The first acknowledging read, at whatever index the operation has it. -/
theorem exec_of_in0_read (hack : (microcode i).drop s.step.toNat = ackReads) (hb : s.busy = true)
    (hans : s.answers = a :: rest) (hok : a.ok = true) : exec i s = .next (afterRead none a s) := by
  have hact := actionAt_in0_read hack rfl
  rw [exec_of_ok hb hact hans hok, afterOk_of_read hact (by decide) hok]

/-- Settles O38: the second read clears the pending state, or fails and leaves its own draw. -/
theorem twoReadsAcknowledgeTheInterrupt : Obligations.TwoReadsAcknowledgeTheInterrupt := by
  intro i s a b rest hcommand hb hans hok
  have hack : (microcode i).drop s.step.toNat = ackReads := by
    rcases hcommand with ⟨rfl | rfl, hk⟩ | ⟨rfl, hk⟩ <;> rw [hk] <;> rfl
  have hsecond : actionAt i (afterRead none a s) = some { tx := .read in1, acks := true } :=
    actionAt_in1_read hack (ackReads_step hack rfl).1
  have hanswers : (afterRead none a s).answers = b :: rest := congrArg List.tail hans
  have hfirst := exec_of_in0_read hack hb hans hok
  cases hbok : b.ok with
  | true =>
    refine ⟨_, _, hfirst, exec_of_ok hb hsecond hanswers hbok, rfl, ?_⟩
    rw [afterOk_of_in1_read hsecond hbok]
    rfl
  | false =>
    obtain ⟨-, hpending⟩ := afterFailure_of_read hsecond rfl hbok
    exact ⟨_, _, hfirst, exec_of_failed hb hsecond hanswers hbok, rfl, hpending⟩

/-- The acknowledging pair and the completion after it, for the three commands that end so. -/
theorem exists_completion_of_ackReads (h : InFlight i s)
    (hack : (microcode i).drop s.step.toNat = ackReads) (hans : s.answers = a :: b :: rest) (ha : a.ok = true)
    (hb : b.ok = true) :
    ∃ s1 s2,
      busRequest s = some (.read s.chipAddr 0x00#8) ∧ exec i s = .next s1 ∧
      busRequest s1 = some (.read s.chipAddr 0x01#8) ∧ exec i s1 = .next s2 ∧
      busRequest s2 = none ∧
      exec i s2 = .next (complete (resultOf i b.rdata) (afterAcknowledgement b (afterRead none a s))) := by
  obtain ⟨hk1, hk2⟩ := ackReads_step (s := s) hack rfl
  have h1 := h.afterRead none a
  have h2 := h1.afterAcknowledgement b
  have hsecond := actionAt_in1_read (s := afterRead none a s) hack hk1
  have hlast := hk2.trans (transactionCount_of_ackReads hack).symm
  refine ⟨_, _, h.busRequest_of_actionAt (actionAt_in0_read hack rfl), exec_of_in0_read hack h.busy hans ha,
    h1.busRequest_of_actionAt hsecond, exec_of_ok h1.busy hsecond (congrArg List.tail hans) hb, ?_⟩
  rw [afterOk_of_in1_read hsecond hb]
  exact ⟨h2.busRequest_of_last hlast, exec_of_last h2.busy hlast⟩

/-- Settles O25: acceptance, then the acknowledging pair. -/
theorem clearInterruptRunsToCompletion : Obligations.ClearInterruptRunsToCompletion := by
  intro s a0 a1 rest hb hans h0 h1
  obtain ⟨s2, s3, hread0, hexec0, hread1, hexec1, hnone, hlast⟩ :=
    exists_completion_of_ackReads (inFlight_started (i := .clearInterrupt) rfl s) rfl hans h0 h1
  refine ⟨_, s2, s3, exec_start rfl hb, hread0, hexec0, hread1, hexec1, hnone, hlast.trans ?_⟩
  simp [complete, afterAcknowledgement, afterRead, started, startOperation, latchCommand, resultOf, statusOk,
    Instr.opcode, Instr.pinOperand, Instr.argOperand, hans, hb]

/-- The rule of R200 and R201: the read-modify-write of bit 3 of 0x0F, then the acknowledging pair. -/
theorem exists_completion_of_interruptControl (v : Bool) {a0 a1 a2 a3 : BusAnswer} (hb : s.busy = false)
    (hans : s.answers = a0 :: a1 :: a2 :: a3 :: rest) (hok : ∀ a ∈ [a0, a1, a2, a3], a.ok = true) :
    let i := interruptControl v
    let data := writeBit a0.rdata inteMask v
    ∃ s1 s2 s3 s4 s5,
      exec i s = .next s1 ∧
      busRequest s1 = some (.read s.chipAddr 0x0F#8) ∧ exec i s1 = .next s2 ∧
      busRequest s2 = some (.write s.chipAddr 0x0F#8 data) ∧ exec i s2 = .next s3 ∧
      busRequest s3 = some (.read s.chipAddr 0x00#8) ∧ exec i s3 = .next s4 ∧
      busRequest s4 = some (.read s.chipAddr 0x01#8) ∧ exec i s4 = .next s5 ∧
      busRequest s5 = none ∧
      exec i s5 = .next { s with
        op := i.opcode, pin := i.pinOperand, arg := i.argOperand, step := 4#3, rd := a3.rdata, rspValid := true
        status := 0#3, result := false, failStep := 0#3, commands := s.commands.tail, answers := rest
        intPending := false
        chip := ((((s.chip.setAll a0.side).set 0x0F#8 data).setAll a1.side).setAll a2.side).setAll a3.side } := by
  intro i data
  simp only [List.forall_mem_cons] at hok
  obtain ⟨h0, h1, h2, h3, -⟩ := hok
  have hw : i.wellFormed = true := interruptControl_wellFormed v
  have hs1 := inFlight_started hw s
  have hs2 := hs1.afterChipCfgRead a0
  have hs3 := hs2.afterWrite chipCfg data a1
  have ha1 : actionAt i (started i s) = some { tx := .read chipCfg } := actionAt_chipCfg_read rfl
  have ha2 : actionAt i (afterChipCfgRead a0 (started i s)) = some { tx := .write chipCfg data } :=
    actionAt_chipCfg_write rfl
  have hexec1 := exec_of_ok hs1.busy ha1 hans h0
  rw [afterOk_of_chipCfg_read ha1 h0] at hexec1
  obtain ⟨s4, s5, hread0, hexec3, hread1, hexec4, hnone, hlast⟩ :=
    exists_completion_of_ackReads hs3 (drop_two_interruptControl v) (congrArg (·.tail.tail) hans) h2 h3
  refine ⟨_, _, _, s4, s5, exec_start hw hb, hs1.busRequest_of_actionAt ha1, hexec1,
    hs2.busRequest_of_actionAt ha2, hs2.exec_of_write ha2 (congrArg List.tail hans) h1,
    hread0, hexec3, hread1, hexec4, hnone, hlast.trans ?_⟩
  simp [complete, afterAcknowledgement, afterChipCfgRead, afterRead, afterWrite, started, startOperation, latchCommand,
    statusOk, chipCfg, hans, hb, i, resultOf_interruptControl]

/-- Settles O23: the rule of R200, where setting bit 3 is an OR with 0x08. -/
theorem enableInterruptRunsToCompletion : Obligations.EnableInterruptRunsToCompletion :=
  fun _ _ _ _ _ _ hb hans hok => exists_completion_of_interruptControl true hb hans hok

/-- Settles O24: the rule of R201, where clearing bit 3 is an AND with 0xF7. -/
theorem disableInterruptRunsToCompletion : Obligations.DisableInterruptRunsToCompletion :=
  fun _ _ _ _ _ _ hb hans hok => exists_completion_of_interruptControl false hb hans hok

end Sys2Proof.Machine

/-! ## Partial states of interrupt control (R84, R205) -/

namespace Sys2Proof.Machine

variable {s : State} {b : Bool} {oks rest : List BusAnswer} {bad : BusAnswer}

/-- R205's table, register 0x0F: the registers `m` after an enableInterrupt or disableInterrupt whose transactions
succeeded with the given quiet answers and then failed; a failed write is latched or not (R84.2). -/
def failedInterruptControlChip (b : Bool) (m : Memory) (latched : Bool) : List BusAnswer → Memory
  | [] => m
  | [a0] => if latched then m.set chipCfg (writeBit a0.rdata inteMask b) else m
  | a0 :: _ :: _ => m.set chipCfg (writeBit a0.rdata inteMask b)

/-- R205's table, the pending state, which was `p`; `pend` is the draw of the failed transaction (log 12). -/
def failedInterruptControlPending (p pend : Bool) : List BusAnswer → Bool
  | [] => p || pend
  | [a0] => p || a0.pend
  | _ :: _ :: _ => pend

/-- The state after the successful read-modify-write of bit 3 of 0x0F, with the answers `a0` and `a1`. -/
def afterWriteInte (b : Bool) (a0 a1 : BusAnswer) (s : State) : State :=
  afterWrite chipCfg (writeBit a0.rdata inteMask b) a1 (afterChipCfgRead a0 (started (interruptControl b) s))

theorem afterOk_of_writeInte {a0 a1 : BusAnswer} (h0 : a0.ok = true) (h1 : a1.ok = true) :
    afterOk (interruptControl b) (afterOk (interruptControl b) (started (interruptControl b) s) a0) a1 =
      afterWriteInte b a0 a1 s := by
  rw [afterOk_of_chipCfg_read (actionAt_chipCfg_read rfl) h0, afterOk_of_write (actionAt_chipCfg_write rfl) h1]
  rfl

theorem afterWriteInte_chip_of_quiet {a0 a1 : BusAnswer} (h0 : a0.side = []) (h1 : a1.side = []) :
    (afterWriteInte b a0 a1 s).chip = s.chip.set chipCfg (writeBit a0.rdata inteMask b) := by
  rw [afterWriteInte, afterWrite_chip_of_quiet h1, afterChipCfgRead_chip_of_quiet h0]
  rfl

/-- A failed enableInterrupt or disableInterrupt leaves the chip and the pending state as in R205's table. -/
theorem chip_and_pending_of_failed_interruptControl (hlt : oks.length < 4)
    (hoks : ∀ a ∈ oks, a.ok = true ∧ a.side = []) (hbad : bad.ok = false) :
    let i := interruptControl b
    let t := afterFailure i (oks.foldl (afterOk i) (started i s)) bad
    t.chip = failedInterruptControlChip b s.chip bad.latched oks ∧
      t.intPending = failedInterruptControlPending s.intPending bad.pend oks := by
  intro i
  dsimp only
  have hack : (microcode i).drop 2 = ackReads := drop_two_interruptControl b
  have ha1 : actionAt i (started i s) = some { tx := .read chipCfg } := actionAt_chipCfg_read rfl
  match oks with
  | [] => exact afterFailure_of_read ha1 rfl hbad
  | [a0] =>
    obtain ⟨h0, hq0⟩ := hoks a0 (by simp)
    have ha2 : actionAt i (afterChipCfgRead a0 (started i s)) = _ := actionAt_chipCfg_write rfl
    obtain ⟨hchip, hpending⟩ := afterFailure_of_write ha2 hbad
    rw [List.foldl_cons, List.foldl_nil, afterOk_of_chipCfg_read ha1 h0, hchip, hpending,
      afterChipCfgRead_chip_of_quiet hq0]
    exact ⟨rfl, rfl⟩
  | [a0, a1] =>
    obtain ⟨h0, hq0⟩ := hoks a0 (by simp)
    obtain ⟨h1, hq1⟩ := hoks a1 (by simp)
    have ha3 := actionAt_in0_read hack (s := afterWriteInte b a0 a1 s) rfl
    obtain ⟨hchip, hpending⟩ := afterFailure_of_read ha3 rfl hbad
    rw [List.foldl_cons, List.foldl_cons, List.foldl_nil, afterOk_of_writeInte h0 h1]
    exact ⟨hchip.trans (afterWriteInte_chip_of_quiet hq0 hq1), hpending⟩
  | [a0, a1, a2] =>
    obtain ⟨h0, hq0⟩ := hoks a0 (by simp)
    obtain ⟨h1, hq1⟩ := hoks a1 (by simp)
    obtain ⟨h2, hq2⟩ := hoks a2 (by simp)
    have ha3 := actionAt_in0_read hack (s := afterWriteInte b a0 a1 s) rfl
    have ha4 := actionAt_in1_read hack (s := afterRead none a2 (afterWriteInte b a0 a1 s)) rfl
    obtain ⟨hchip, hpending⟩ := afterFailure_of_read ha4 rfl hbad
    rw [List.foldl_cons, List.foldl_cons, List.foldl_cons, List.foldl_nil, afterOk_of_writeInte h0 h1,
      afterOk_of_read ha3 (by decide) h2]
    exact ⟨hchip.trans ((afterRead_chip_of_quiet hq2 _ _).trans (afterWriteInte_chip_of_quiet hq0 hq1)), hpending⟩

theorem read_failedInterruptControlChip_other {r : Nat} (hr : r ≠ 0x0F) (m : Memory) (latched : Bool)
    (oks : List BusAnswer) : (failedInterruptControlChip b m latched oks).read r = m.read r := by
  have hset (d : Byte) : (m.set chipCfg d).read r = m.read r := Memory.read_set_other hr m d
  match oks with
  | [] => rfl
  | [_] => cases latched <;> simp [failedInterruptControlChip, hset]
  | _ :: _ :: _ => exact hset _

theorem read_failedInterruptControlChip_chipCfg (m : Memory) (latched : Bool) (a0 : BusAnswer)
    (more : List BusAnswer) :
    (failedInterruptControlChip b m latched (a0 :: more)).read 0x0F =
      if more = [] ∧ latched = false then m.read 0x0F else some (writeBit a0.rdata inteMask b) := by
  have hset (d : Byte) : (m.set chipCfg d).read 0x0F = some d := Memory.read_set_same (by decide) m d
  match more with
  | [] => cases latched <;> simp [failedInterruptControlChip, hset]
  | _ :: _ => simp [failedInterruptControlChip, hset]

/-- Settles O44: the run ends in R205's table, whose entries are read off. -/
theorem failedInterruptControlLeavesAPartialState : Obligations.FailedInterruptControlLeavesAPartialState := by
  intro b s cs oks rest bad hb ho hc hans hlt hoks hbad
  have hk := hlt.trans_eq (transactionCount_interruptControl b).symm
  have hrun := run_of_failed_command (interruptControl_wellFormed b) hb ho (encode_interruptControl b ▸ hc) hans hk
    (fun a ha => (hoks a ha).1) hbad
  obtain ⟨hchip, hpending⟩ := chip_and_pending_of_failed_interruptControl (b := b) (s := s) hlt hoks hbad
  refine ⟨_, hrun, responsePort_of_failed_command s oks bad hk, ?_⟩
  rw [hchip, hpending]
  refine ⟨fun r hr => read_failedInterruptControlChip_other hr s.chip bad.latched oks, fun h0 => ?_, ?_, fun h0 => ?_,
    ?_, fun h2 => ?_⟩
  · rw [List.length_eq_zero_iff.1 h0]
    rfl
  · rintro a0 more rfl
    exact read_failedInterruptControlChip_chipCfg s.chip bad.latched a0 more
  · rw [List.length_eq_zero_iff.1 h0]
    rfl
  · rintro a0 rfl
    rfl
  · match oks, h2 with
    | _ :: _ :: _, _ => rfl

end Sys2Proof.Machine

/-! ## Interrupt control in the reference environment (R80, R203, R204) -/

namespace Sys2Proof.Machine

variable {s : State} {i : Instr} {e : RefEnv}

theorem refSucceed_in1_read (he : e.index ∉ e.faults) (s : State) :
    (refSucceed e { tx := .read in1, acks := true } s).chip = s.chip ∧
      (refSucceed e { tx := .read in1, acks := true } s).intPending = false := by
  have hinput : isInputReg in1 = true := rfl
  simp [refSucceed, chipAfter, pendingAfter, Transaction.request, refAnswer, Memory.setAll, hinput, he]

/-- The acknowledging pair and the completion after it: the registers stay, the pending state is clear (R203). -/
theorem exists_refRun_of_ackReads (h : InFlight i s) (ho : s.outside = [])
    (hack : (microcode i).drop s.step.toNat = ackReads) (he : noFaults e 2) :
    ∃ e' t, refRun 3 e s = (e', .next (complete (resultOf i t.rd) t)) ∧ t.chip = s.chip ∧
      t.intPending = false := by
  obtain ⟨h0, he⟩ := noFaults_succ he
  obtain ⟨h1, -⟩ := noFaults_succ he
  obtain ⟨hk1, hk2⟩ := ackReads_step (s := s) hack rfl
  have hmid := h.refSucceed e { tx := .read in0 }
  have hend := hmid.refSucceed { e with index := e.index + 1 } { tx := .read in1, acks := true }
  have hfirst := h.refStep_of_ok ho (actionAt_in0_read hack rfl) h0
  have hsecond := hmid.refStep_of_ok ho (actionAt_in1_read hack hk1) h1
  have hlast := hend.refRun_of_last ho (hk2.trans (transactionCount_of_ackReads hack).symm)
    { e with index := e.index + 2 }
  obtain ⟨hchip, hpending⟩ := refSucceed_in1_read h1 (refSucceed e { tx := .read in0 } s)
  exact ⟨_, _, (refRun_of_refStep hfirst 2).trans ((refRun_of_refStep hsecond 1).trans hlast),
    hchip.trans (refSucceed_read_chip none in0 s), hpending⟩

/-- `INTE_MASK` is the mask of bit 3, which is also the bit of pin 3 (R121, R127). -/
theorem writeBit_inteMask (r : Byte) (b : Bool) :
    (writeBit r inteMask b).getLsbD 3 = b ∧ ∀ j, j ≠ 3 → (writeBit r inteMask b).getLsbD j = r.getLsbD j :=
  writeBitChangesOneBit r 3#4 b

/-- Settles O47: the pair of R200 and R201 writes the byte read with bit 3 replaced, the two reads acknowledge. -/
theorem interruptControlChangesOnlyBit3 : Obligations.InterruptControlChangesOnlyBit3 := by
  intro b e s hb ho hc he
  have hw := interruptControl_wellFormed b
  obtain ⟨he, t, hpair, ht, hto, hk, -, hchip⟩ :=
    (inFlight_started hw s).exists_refRun_of_pair (n := 2) ho (actionAt_chipCfg_read rfl)
      (fun t hk hrd _ => hrd ▸ actionAt_chipCfg_write hk) he
  obtain ⟨e', u, hreads, hkept, hpending⟩ :=
    exists_refRun_of_ackReads ht hto (hk ▸ drop_two_interruptControl b) he
  rw [resultOf_interruptControl] at hreads
  obtain ⟨hown, hothers⟩ := writeBit_inteMask (refReadByte e s.chip chipCfg) b
  have hrun := (refRun_start hw hb ho (encode_interruptControl b ▸ hc) e 5).trans (hpair.trans hreads)
  refine ⟨e', _, _, hrun, rfl, ?_, hown, hpending, hothers, fun r hr => ?_⟩
  · rw [complete_chip, hkept, hchip]
    exact Memory.read_set_same (by decide) _ _
  · rw [complete_chip, hkept, hchip]
    exact Memory.read_set_other hr _ _

end Sys2Proof.Machine

/-! # Proofs of the error statements (60_exceptions.md) -/

/-! ## The ends of an operation rule (R34, R35, R221) -/

namespace Sys2Proof.Machine

section Ends

variable {chip : ChipAddr} {result : Byte → Bool} {k : BitVec 3} {rd : Byte} {v : Nibble} {r : Response}
  {oks : List BusAnswer} {bad : BusAnswer}

/-- The index `j` transactions after the next one. -/
theorem step_index_succ (k : BitVec 3) (j : Nat) : k + 1#3 + BitVec.ofNat 3 j = k + BitVec.ofNat 3 (j + 1) := by
  rw [BitVec.ofNat_add, BitVec.add_assoc, BitVec.add_comm 1#3]

/-- An operation rule that ends does so with OK, or with BUS_FAIL at one of its transactions. -/
theorem observeFrom_response_cases (code : Microcode) {answers : List BusAnswer}
    (h : (observeFrom chip result code k rd v answers).response = some r) :
    r.status = statusOk ∨ ∃ j, j < code.length ∧ r = errorResponse (.busFail (k + BitVec.ofNat 3 j)) := by
  induction code generalizing k rd v answers with
  | nil =>
    cases h
    exact .inl rfl
  | cons action code ih =>
    cases answers with
    | nil => cases h
    | cons ans rest =>
      cases hok : ans.ok with
      | true =>
        simp only [observeFrom, hok, if_true] at h
        refine (ih h).imp_right ?_
        rintro ⟨j, hj, rfl⟩
        exact ⟨j + 1, Nat.succ_lt_succ hj, by rw [step_index_succ]⟩
      | false =>
        refine .inr ⟨0, Nat.succ_pos _, ?_⟩
        simpa [observeFrom, hok, eq_comm] using h

/-- Successes for all transactions of an operation rule: it ends with OK. -/
theorem exists_observeFrom_ok (code : Microcode) (hoks : ∀ a ∈ oks, a.ok = true) (hlen : oks.length = code.length) :
    ∃ r, (observeFrom chip result code k rd v oks).response = some r ∧ r.status = statusOk := by
  induction code generalizing k rd v oks with
  | nil => exact ⟨_, rfl, rfl⟩
  | cons action code ih =>
    obtain ⟨ans, oks, rfl⟩ := List.exists_cons_of_length_eq_add_one hlen
    obtain ⟨hans, hoks⟩ := List.forall_mem_cons.1 hoks
    simp only [observeFrom, hans, if_true]
    exact ih hoks (Nat.succ.inj hlen)

/-- Successes for fewer transactions than the operation rule has, then a failure: BUS_FAIL at the next index. -/
theorem observeFrom_busFail (code : Microcode) (hoks : ∀ a ∈ oks, a.ok = true) (hbad : bad.ok = false)
    (hlen : oks.length < code.length) :
    (observeFrom chip result code k rd v (oks ++ [bad])).response =
      some (errorResponse (.busFail (k + BitVec.ofNat 3 oks.length))) := by
  induction code generalizing k rd v oks with
  | nil => cases hlen
  | cons action code ih =>
    cases oks with
    | nil => simp [observeFrom, hbad]
    | cons ans oks =>
      obtain ⟨hans, hoks⟩ := List.forall_mem_cons.1 hoks
      simp only [List.cons_append, observeFrom, hans, if_true]
      rw [ih hoks (Nat.lt_of_succ_lt_succ hlen), step_index_succ, List.length_cons]

end Ends

/-! ## The ends of a command word (R106, R221) -/

/-- An answer that brings nothing but success or failure. -/
def bareAnswer (ok : Bool) : BusAnswer := ⟨ok, 0#8, false, false, []⟩

section Commands

variable {i : Instr} {c : CmdWord} {e : Cause} {chip : ChipAddr} {answers : List BusAnswer} {r : Response}

theorem observeCommand_of_decode (h : decode c = .ok i) (chip : ChipAddr) (answers : List BusAnswer) :
    observeCommand c chip answers = observeFrom chip (resultOf i) (microcode i) 0#3 0#8 0#4 answers := by
  simp [observeCommand, h]

theorem observeCommand_of_check (h : acceptanceCheck c = some e) (chip : ChipAddr) (answers : List BusAnswer) :
    observeCommand c chip answers = ⟨[], some (errorResponse e)⟩ := by
  simp [observeCommand, (decode_eq_error_iff c e).2 h]

/-- An index below N(op) fits `fail_step` (R222). -/
theorem toNat_failStep {j : Nat} (h : j < transactionCount i) :
    (errorResponse (.busFail (0#3 + BitVec.ofNat 3 j))).failStep.toNat = j := by
  have hlt : j < 8 := by
    have hle := transactionCount_le i
    omega
  simpa [errorResponse, causeFailStep] using hlt

/-- A word that decodes ends, if it ends, with OK or with BUS_FAIL below N(op). -/
theorem status_of_decode (hd : decode c = .ok i) (hr : (observeCommand c chip answers).response = some r) :
    r.status = 0#3 ∨ (r.status = 1#3 ∧ r.failStep.toNat < transactionCount i) := by
  rw [observeCommand_of_decode hd] at hr
  refine (observeFrom_response_cases (microcode i) hr).imp_right ?_
  rintro ⟨j, hj, rfl⟩
  exact ⟨rfl, (toNat_failStep hj).trans_lt hj⟩

theorem exists_ok_of_decode (hd : decode c = .ok i) (chip : ChipAddr) :
    ∃ answers r, (observeCommand c chip answers).response = some r ∧ r.status = 0#3 := by
  refine ⟨List.replicate (transactionCount i) (bareAnswer true), ?_⟩
  rw [observeCommand_of_decode hd]
  exact exists_observeFrom_ok (microcode i) (fun _ ha => List.eq_of_mem_replicate ha ▸ rfl) List.length_replicate

theorem exists_busFail_of_decode (hd : decode c = .ok i) (chip : ChipAddr) {k : Nat} (hk : k < transactionCount i) :
    ∃ answers r, (observeCommand c chip answers).response = some r ∧ r.status = 1#3 ∧ r.failStep.toNat = k := by
  have hlen : (List.replicate k (bareAnswer true)).length = k := List.length_replicate
  refine ⟨List.replicate k (bareAnswer true) ++ [bareAnswer false], _, ?_, rfl, toNat_failStep hk⟩
  rw [observeCommand_of_decode hd, observeFrom_busFail (microcode i)
    (fun _ ha => List.eq_of_mem_replicate ha ▸ rfl) rfl (hlen.trans_lt hk), hlen]

theorem status_of_check (h : acceptanceCheck c = some e) (hr : (observeCommand c chip answers).response = some r) :
    r.status = causeCode e := by
  rw [observeCommand_of_check h] at hr
  cases hr
  rfl

theorem status_of_no_check (h : acceptanceCheck c = none) (hr : (observeCommand c chip answers).response = some r) :
    r.status = 0#3 ∨ r.status = 1#3 := by
  cases hd : decode c with
  | ok i => exact (status_of_decode hd hr).imp_right And.left
  | error e => simp [(decode_eq_error_iff c e).1 hd] at h

end Commands

section Words

variable {op pin arg : Byte}

/-- R221's last column: a nonzero field of a command without a pin, or an argument that pinMode or digitalRead does not
take, the pin being in range. -/
def HasIllegalArg (op pin arg : Byte) : Prop :=
  (op ∈ [0x01#8, 0x06#8, 0x07#8, 0x08#8] ∧ (pin ≠ 0#8 ∨ arg ≠ 0#8)) ∨
  (op = 0x02#8 ∧ pin.toNat < 16 ∧ arg ≠ 0#8 ∧ arg ≠ 1#8) ∨
  (op = 0x03#8 ∧ pin.toNat < 16 ∧ arg ≠ 0#8)

theorem check_illegalArg (h : HasIllegalArg op pin arg) :
    acceptanceCheck (packWord op pin arg) = some (.illegalArg arg) := by
  rcases h with ⟨hop, hz⟩ | ⟨rfl, hp, h0, h1⟩ | ⟨rfl, hp, ha⟩
  · exact check_pinless hop hz
  · exact check_mode hp h0 h1
  · exact check_readArg hp ha

/-- The opcodes of R103: without a pin, and with one. -/
theorem opcode_cases : ∀ op : Byte, 1 ≤ op.toNat ∧ op.toNat ≤ 8 →
    op ∈ [0x01#8, 0x06#8, 0x07#8, 0x08#8] ∨ op ∈ [0x02#8, 0x03#8, 0x04#8, 0x05#8] := by decide

/-- A pin-taking opcode with a pin in range is refused for its argument only. -/
theorem check_eq_none_of_pinOp (hop : op ∈ [0x02#8, 0x03#8, 0x04#8, 0x05#8]) (hp : pin.toNat < 16)
    (ha : ¬HasIllegalArg op pin arg) : acceptanceCheck (packWord op pin arg) = none := by
  simp only [List.mem_cons, List.not_mem_nil, or_false] at hop
  apply check_legal
  rcases hop with rfl | rfl | rfl | rfl
  · exact .inr (.inr (.inl ⟨rfl, hp, or_iff_not_imp_left.2 (by simpa [HasIllegalArg, hp] using ha)⟩))
  · exact .inr (.inl ⟨rfl, hp, by simpa [HasIllegalArg, hp] using ha⟩)
  · exact .inr (.inr (.inr ⟨by decide, hp⟩))
  · exact .inr (.inr (.inr ⟨by decide, hp⟩))

/-- Every word falls under one of the table's three refusals or passes the checks (R221). -/
theorem check_cases (op pin arg : Byte) :
    ¬(1 ≤ op.toNat ∧ op.toNat ≤ 8) ∨ (op ∈ [0x02#8, 0x03#8, 0x04#8, 0x05#8] ∧ 16 ≤ pin.toNat) ∨
      HasIllegalArg op pin arg ∨ acceptanceCheck (packWord op pin arg) = none := by
  by_cases hlegal : 1 ≤ op.toNat ∧ op.toNat ≤ 8
  · by_cases ha : HasIllegalArg op pin arg
    · exact .inr (.inr (.inl ha))
    · rcases opcode_cases op hlegal with hop | hop
      · have hzero : pin = 0#8 ∧ arg = 0#8 := by
          by_contra hz
          exact ha (.inl ⟨hop, not_and_or.1 hz⟩)
        exact .inr (.inr (.inr (check_legal (.inl ⟨hop, hzero⟩))))
      · rcases Nat.lt_or_ge pin.toNat 16 with hp | hp
        · exact .inr (.inr (.inr (check_eq_none_of_pinOp hop hp ha)))
        · exact .inr (.inl ⟨hop, hp⟩)
  · exact .inl hlegal

/-- The status of a word, by the row and the column of the table that it falls under (R221). -/
theorem status_cases {chip : ChipAddr} {answers : List BusAnswer} {r : Response}
    (hr : (observeCommand (packWord op pin arg) chip answers).response = some r) :
    (¬(1 ≤ op.toNat ∧ op.toNat ≤ 8) ∧ r.status = 3#3) ∨
      ((op ∈ [0x02#8, 0x03#8, 0x04#8, 0x05#8] ∧ 16 ≤ pin.toNat) ∧ r.status = 2#3) ∨
      (HasIllegalArg op pin arg ∧ r.status = 4#3) ∨ r.status = 0#3 ∨ r.status = 1#3 := by
  rcases check_cases op pin arg with h | h | h | h
  · exact .inl ⟨h, status_of_check (check_illegalOp h) hr⟩
  · exact .inr (.inl ⟨h, status_of_check (check_invalidPin h.1 h.2) hr⟩)
  · exact .inr (.inr (.inl ⟨h, status_of_check (check_illegalArg h) hr⟩))
  · exact .inr (.inr (.inr (status_of_no_check h hr)))

end Words

/-- Settles O28: the ends of a legal command are those of its operation rule; the check that refuses a word gives its
status, and a word that no check refuses ends with OK or BUS_FAIL. -/
theorem statusesEachCommandCanEndWith : Obligations.StatusesEachCommandCanEndWith := by
  constructor
  · intro i chip hw failures
    have hd := decode_encode hw
    have hcount : failures = transactionCount i := by cases i <;> rfl
    rw [hcount]
    exact ⟨fun _ _ => status_of_decode hd, exists_ok_of_decode hd chip, fun _ => exists_busFail_of_decode hd chip⟩
  · intro op pin arg chip answers r hr
    have hends := status_cases hr
    refine ⟨⟨fun hs => ?_, fun h => ?_⟩, ⟨fun hs => ?_, fun h => ?_⟩, ⟨fun hs => ?_, fun h => ?_⟩⟩
    · simpa [hs] using hends
    · exact status_of_check (check_illegalOp h) hr
    · simpa [hs] using hends
    · exact status_of_check (check_invalidPin h.1 h.2) hr
    · simpa [hs, HasIllegalArg] using hends
    · exact status_of_check (check_illegalArg h) hr

end Sys2Proof.Machine

/-! # Proofs of the reset and hazard statements (70_reset_and_hazards.md) -/

/-! ## The transaction counts (R262) -/

namespace Sys2Proof.Machine

section Counts

variable {chip : ChipAddr} {result : Byte → Bool} {k : BitVec 3} {rd : Byte} {v : Nibble} {answers : List BusAnswer}
  {r : Response} {c : CmdWord}

@[simp] theorem isRead_request_read (chip : ChipAddr) (a : Byte) :
    ((Transaction.read a).request chip).isRead = true := rfl

@[simp] theorem isRead_request_write (chip : ChipAddr) (a d : Byte) :
    ((Transaction.write a d).request chip).isRead = false := rfl

/-- Is the entry of an operation rule a read? Read off at one value of the latches, which decide no entry's kind
(`isRead_request_of_microcode`). -/
def isReadEntry (action : Byte → Nibble → TxAction) : Bool := ((action 0#8 0#4).tx.request 0#7).isRead

/-- Whether a transaction reads or writes does not depend on `chip_addr`, `rd` or `v`. -/
theorem isRead_request_of_microcode (i : Instr) (chip : ChipAddr) (rd : Byte) (v : Nibble) :
    ∀ action ∈ microcode i, ((action rd v).tx.request chip).isRead = isReadEntry action := by
  have hanalog : ∀ p x, ∀ action ∈ analogWriteCode p x,
      ((action rd v).tx.request chip).isRead = isReadEntry action := by
    simp [analogWriteCode, isReadEntry]
  have hinterrupt : ∀ b, ∀ action ∈ writeInte b ++ ackReads,
      ((action rd v).tx.request chip).isRead = isReadEntry action := by
    simp [writeInte, ackReads, isReadEntry]
  cases i with
  | begin => simp [microcode, beginCode, isReadEntry]
  | pinMode pin mode => simp [microcode, pinModeCode, isReadEntry]
  | digitalRead pin => simp [microcode, digitalReadCode, isReadEntry]
  | digitalWrite pin b => exact hanalog _ _
  | analogWrite pin x => exact hanalog _ _
  | enableInterrupt => exact hinterrupt true
  | disableInterrupt => exact hinterrupt false
  | clearInterrupt => exact fun action h => hinterrupt true action (List.mem_append_right _ h)

/-- Answered with successes, an operation rule issues one request for each entry, reads and writes in its order. -/
theorem map_isRead_requests (code : Microcode)
    (hkind : ∀ action ∈ code, ∀ rd v, ((action rd v).tx.request chip).isRead = isReadEntry action)
    (hoks : ∀ a ∈ answers, a.ok = true) (hlen : code.length ≤ answers.length) :
    (observeFrom chip result code k rd v answers).requests.map BusRequest.isRead = code.map isReadEntry := by
  induction code generalizing k rd v answers with
  | nil => rfl
  | cons action code ih =>
    cases answers with
    | nil => cases hlen
    | cons ans rest =>
      obtain ⟨hans, hoks⟩ := List.forall_mem_cons.1 hoks
      obtain ⟨haction, hkind⟩ := List.forall_mem_cons.1 hkind
      simp only [observeFrom, hans, if_true, List.map_cons, haction]
      rw [ih hkind hoks (Nat.le_of_succ_le_succ hlen)]

/-- An operation that ends in BUS_FAIL has issued the transactions up to the failed one, `j` places after the first. -/
theorem requests_of_busFail (code : Microcode)
    (hr : (observeFrom chip result code k rd v answers).response = some r) (hs : r.status = 1#3) :
    ∃ j, j < code.length ∧ r = errorResponse (.busFail (k + BitVec.ofNat 3 j)) ∧
      (observeFrom chip result code k rd v answers).requests.length = j + 1 := by
  induction code generalizing k rd v answers with
  | nil =>
    cases hr
    cases hs
  | cons action code ih =>
    cases answers with
    | nil => cases hr
    | cons ans rest =>
      cases hok : ans.ok with
      | true =>
        simp only [observeFrom, hok, if_true] at hr ⊢
        obtain ⟨j, hj, rfl, hlen⟩ := ih hr
        exact ⟨j + 1, Nat.succ_lt_succ hj, by rw [step_index_succ], congrArg (· + 1) hlen⟩
      | false =>
        refine ⟨0, Nat.succ_pos _, ?_, by simp [observeFrom, hok]⟩
        simpa [observeFrom, hok, eq_comm] using hr

/-- A rejected word has another status than BUS_FAIL. -/
theorem exists_decode_of_busFail (hr : (observeCommand c chip answers).response = some r) (hs : r.status = 1#3) :
    ∃ i, decode c = .ok i := by
  cases hd : decode c with
  | ok i => exact ⟨i, rfl⟩
  | error e =>
    have hcheck := (decode_eq_error_iff c e).1 hd
    have hcode : causeCode e = 1#3 := (status_of_check hcheck hr).symm.trans hs
    have hcodes := causeCode_of_check hcheck
    simp [hcode] at hcodes

end Counts

/-- Settles O27: with successes only the requests are those of the operation rule, whose kinds give the table of R262;
a failure cuts them off after the failed one. -/
theorem transactionCountsOfEveryCommand : Obligations.TransactionCountsOfEveryCommand := by
  refine ⟨?_, ?_, ?_⟩
  · intro i chip answers hw hlen hoks rs reads counts
    have hkinds : rs.map BusRequest.isRead = (microcode i).map isReadEntry := by
      simp only [rs, observeCommand_of_decode (decode_encode hw)]
      exact map_isRead_requests (microcode i) (fun f hf rd v => isRead_request_of_microcode i chip rd v f hf) hoks
        ((transactionCount_le i).trans hlen)
    have hreads : reads = ((microcode i).map isReadEntry).countP id := by
      rw [← hkinds, List.countP_map]
      exact List.countP_eq_length_filter.symm
    have htotal : rs.length = ((microcode i).map isReadEntry).length := by rw [← hkinds, List.length_map]
    rw [hreads, htotal]
    cases i <;> exact ⟨rfl, rfl⟩
  · intro c e chip answers he
    rw [observeCommand_of_check ((decode_eq_error_iff c e).1 he)]
  · intro c chip answers r hr hs
    obtain ⟨i, hd⟩ := exists_decode_of_busFail hr hs
    rw [observeCommand_of_decode hd] at hr ⊢
    obtain ⟨j, hj, rfl, hlen⟩ := requests_of_busFail (microcode i) hr hs
    rw [hlen, toNat_failStep hj]

end Sys2Proof.Machine

/-! ## Waiting for an answer and for a command (R33, R253, R263) -/

namespace Sys2Proof.Machine

variable {s : State}

/-- A state that its step leaves as it is stands for ever. -/
theorem run_of_fixed (h : step s = .next s) (n : Nat) : Sys2Proof.core.run n s = .next s := by
  induction n with
  | zero => rfl
  | succ n ih => rw [run_of_step h, ih]

theorem step_of_unanswered {r : BusRequest} (ho : s.outside = []) (hr : busRequest s = some r)
    (ha : s.answers = []) : step s = .next s := by
  obtain ⟨act, hact, -⟩ := exists_currentAction_of_busRequest hr
  obtain ⟨hstep, hm⟩ := step_of_currentAction ho hact
  exact hstep.trans (transact_of_unanswered hm ha)

/-- Settles O16: the step of an unanswered request changes nothing, and so does any number of them. -/
theorem unansweredTransactionHoldsForEver : Obligations.UnansweredTransactionHoldsForEver := by
  intro n s ho hr ha
  obtain ⟨r, hr⟩ := Option.ne_none_iff_exists'.1 hr
  exact run_of_fixed (step_of_unanswered ho hr ha) n

/-- Settles O11: the IDLE block's turn with no word is a wait. -/
theorem idleBlockWaitsForACommand : Obligations.IdleBlockWaitsForACommand := by
  intro s ho hb hc
  exact ⟨(step_of_alone ho).trans (blockTurn_of_waiting hb hc), by simp [State.cmdReady, hb]⟩

end Sys2Proof.Machine

/-! ## Reset (R250–R252) -/

namespace Sys2Proof.Machine

variable {s : State} {act : TxAction} {latched pend : Bool}

theorem step_of_reset {rest : List OutsideMove} (h : s.outside = .reset latched pend :: rest) :
    step s = .next (resetBlock (abandonInFlight latched pend { s with outside := rest })) :=
  step_of_move h nofun

/-- The answer that a transaction in flight at reset gets: a failure, with the draws of the reset move (R251). -/
def abandonedAnswer (latched pend : Bool) : BusAnswer := ⟨false, 0#8, latched, pend, []⟩

theorem abandonInFlight_chip (h : currentAction s = some act) :
    (abandonInFlight latched pend s).chip = chipAfter act.tx (abandonedAnswer latched pend) s.chip := by
  simp [abandonInFlight, h, abandonedAnswer]

theorem abandonInFlight_intPending (h : currentAction s = some act) :
    (abandonInFlight latched pend s).intPending = pendingAfter act (abandonedAnswer latched pend) s.intPending := by
  simp [abandonInFlight, h, abandonedAnswer]

theorem currentAction_of_no_request (h : busRequest s = none) : currentAction s = none := by
  cases hact : currentAction s with
  | none => rfl
  | some act => simp [busRequest_of_currentAction hact] at h

theorem abandonInFlight_of_no_request (h : busRequest s = none) : abandonInFlight latched pend s = s := by
  simp [abandonInFlight, currentAction_of_no_request h]

/-- The transaction that a request presents is that of the action in flight. -/
theorem exists_currentAction_of_request {tx : Transaction} (h : busRequest s = some (tx.request s.chipAddr)) :
    ∃ act, currentAction s = some act ∧ act.tx = tx := by
  obtain ⟨act, hact, hreq⟩ := exists_currentAction_of_busRequest h
  exact ⟨act, hact, (Transaction.request_injective _ hreq).symm⟩

/-- A read abandoned in flight leaves the registers alone and draws the pending state, which a read of 0x0F can only
set (R84.1, R205). -/
theorem abandonInFlight_of_read {a : Byte} (h : busRequest s = some (.read s.chipAddr a)) :
    (abandonInFlight latched pend s).chip = s.chip ∧
      (abandonInFlight latched pend s).intPending = if a = 0x0F#8 then s.intPending || pend else pend := by
  obtain ⟨act, hact, htx⟩ := exists_currentAction_of_request (tx := .read a) h
  rw [abandonInFlight_chip hact, abandonInFlight_intPending hact, htx]
  exact ⟨chipAfter_failed_read a s.chip rfl, pendingAfter_failed_read s.intPending htx rfl⟩

/-- A write abandoned in flight leaves the pending state alone, and of the registers draws its own (R84.2, R205). -/
theorem abandonInFlight_of_write {a v : Byte} (h : busRequest s = some (.write s.chipAddr a v)) :
    (abandonInFlight latched pend s).intPending = s.intPending ∧
      ∀ r, (abandonInFlight latched pend s).chip.read r =
        if latched = true ∧ r = a.toNat then some v else s.chip.read r := by
  obtain ⟨act, hact, htx⟩ := exists_currentAction_of_request (tx := .write a v) h
  have hissued := currentAction_issued hact
  rw [htx] at hissued
  have hmapped : isMapped a = true := (mapped_of_issued a hissued).1
  rw [abandonInFlight_chip hact, abandonInFlight_intPending hact, htx, chipAfter_failed_write a v s.chip rfl]
  refine ⟨pendingAfter_write _ _ htx, fun r => ?_⟩
  cases latched <;> simp [abandonedAnswer, Memory.read_set, hmapped]

/-- Settles O50: the reset block is IDLE, and what it leaves of the chip is what the transaction in flight leaves when
it is abandoned. -/
theorem resetAbandonsTheOperation : Obligations.ResetAbandonsTheOperation := by
  intro s latched pend rest ho _
  refine ⟨_, step_of_reset ho, rfl, rfl, busRequest_of_idle rfl, fun a hr => ?_, fun a v hr => ?_, fun hr => ?_⟩
  · exact abandonInFlight_of_read (s := { s with outside := rest }) hr
  · exact abandonInFlight_of_write (s := { s with outside := rest }) hr
  · rw [abandonInFlight_of_no_request (s := { s with outside := rest }) hr]
    exact ⟨rfl, rfl⟩

/-- Settles O49: construction and `resetBlock` give the same six values. -/
theorem resetGivesTheSpecValues : Obligations.ResetGivesTheSpecValues := by
  refine ⟨⟨rfl, rfl, rfl, rfl, rfl, rfl⟩, fun s latched pend rest ho => ?_⟩
  exact ⟨_, step_of_reset ho, rfl, rfl, rfl, rfl, rfl, rfl⟩

/-- Settles O55: the reset block is IDLE with an empty response, and lists the 18 registers. -/
theorem resetMeetsTheInvariant : Obligations.ResetMeetsTheInvariant :=
  ⟨reset_chip_wf, rfl, nofun, nofun, by simp [responseCovered, State.reset]⟩

end Sys2Proof.Machine
